-- ==== Sys2Proof/Word.lean ====
section
/-!
DEFINITION. The word types of the block: bytes, frames, command words and status words (spec R7, R29, R58, R70).
-/

namespace Sys2Proof

/-- A framebuffer byte, a frame's data byte, a chip register (R50, R58). -/
abbrev Byte := BitVec 8

/-- A 16-bit frame, as handed to the transport (R7, R58). -/
abbrev Frame := BitVec 16

/-- A 64-bit word of the command port: a header or a payload word (R34, R70). -/
abbrev CmdWord := BitVec 64

/-- The 32-bit STATUS word (R29). -/
abbrev StatusWord := BitVec 32

/-- The width of the A field and of the L field: 24 bits (R10, R71, R72). -/
abbrev fieldBound : Nat := 2 ^ 24

end Sys2Proof
end

