-- ==== Sys2Proof/Config.lean ====
section
/-!
DEFINITION. What the block is built with (spec R6, R11, R12) and the free values of the model: values the spec calls
"unspecified (any value)". Nothing in Lean can evaluate a free value or prove what it is.
-/

namespace Sys2Proof

/-- `ROWS = 8` digit-rows per chip (R6). -/
abbrev rows : Nat := 8

/-- The parameters of one built block. No step changes them.
`chainLenMax` is `CHAIN_LEN_MAX` (R11, D10); `queueDepth` is the transport's `QDEPTH` (R12, R102, D17). -/
structure Params where
  chainLenMax : Nat
  queueDepth : Nat
  deriving DecidableEq, Repr

/-- The bounds the spec puts on the parameters: `1 ≤ CHAIN_LEN_MAX ≤ 2^21` (R11) and `QDEPTH ≥ 1` (R102). -/
abbrev Params.wf (p : Params) : Prop :=
  1 ≤ p.chainLenMax ∧ p.chainLenMax ≤ 2 ^ 21 ∧ 1 ≤ p.queueDepth

/-- Free value: the content of a chip register the spec calls "any value" (R41, R96, R231, R240), drawn with the
counter `State.free`. Log 4. -/
opaque Config.freeByte : Nat → Byte

/-- Free value: the content of a chip's shift register at power-on, "unspecified (any value)" (R41). Log 4. -/
opaque Config.freeFrame : Nat → Frame

/-- Free value: the unspecified content of framebuffer offset `i` (second argument) after reset or TEARDOWN (R41, R69,
R124), a new one for each epoch (first argument, `State.fbEpoch`). Log 5. -/
opaque Config.freeFbByte : Nat → Nat → Byte

end Sys2Proof
end

