-- ==== Sys2Proof/Syntax.lean ====
section
/-!
DEFINITION. The instructions: one constructor per row of spec/opcode_table.json (seven host commands and the fourteen
frames of the register map), and the assembler lines of spec R79.
-/

namespace Sys2Proof

/-- One constructor per row of the opcode table. The numeric operands of commands are natural numbers: "every field is
unsigned and zero-extended to a natural number" (R72, R73); `WellFormed` holds them to their field's width.
A frame's constructor carries its don't-care nibble and its data byte (R80, R81). -/
inductive Instr where
  /-- CONFIGURE `n` (R121). -/
  | configure (n : Nat)
  /-- TEARDOWN (R124). -/
  | teardown
  /-- WRITE_REGISTER `chipOffset`, `F` (R141). -/
  | writeRegister (chipOffset : Nat) (f : Frame)
  /-- WRITE_ALL_REGISTERS `F` (R146). -/
  | writeAllRegisters (f : Frame)
  /-- UPDATE_BUFFER_REPLICATE `columnOffset`, `L`, `V` (R161). -/
  | updateBufferReplicate (columnOffset length : Nat) (v : Byte)
  /-- UPDATE_BUFFER_SEQUENCE `columnOffset`, `L`; its payload words follow on the command port (R163, R74). -/
  | updateBufferSequence (columnOffset length : Nat)
  /-- REFRESH (R181). -/
  | refresh
  /-- Frame with register address 0x0 (R82). -/
  | frameNoop (dontcare : BitVec 4) (data : Byte)
  /-- Frame with register address 0x1 (R83). -/
  | frameDigit0 (dontcare : BitVec 4) (data : Byte)
  /-- Frame with register address 0x2 (R84). -/
  | frameDigit1 (dontcare : BitVec 4) (data : Byte)
  /-- Frame with register address 0x3 (R85). -/
  | frameDigit2 (dontcare : BitVec 4) (data : Byte)
  /-- Frame with register address 0x4 (R86). -/
  | frameDigit3 (dontcare : BitVec 4) (data : Byte)
  /-- Frame with register address 0x5 (R87). -/
  | frameDigit4 (dontcare : BitVec 4) (data : Byte)
  /-- Frame with register address 0x6 (R88). -/
  | frameDigit5 (dontcare : BitVec 4) (data : Byte)
  /-- Frame with register address 0x7 (R89). -/
  | frameDigit6 (dontcare : BitVec 4) (data : Byte)
  /-- Frame with register address 0x8 (R90). -/
  | frameDigit7 (dontcare : BitVec 4) (data : Byte)
  /-- Frame with register address 0x9 (R91). -/
  | frameDecodeMode (dontcare : BitVec 4) (data : Byte)
  /-- Frame with register address 0xA (R92). -/
  | frameIntensity (dontcare : BitVec 4) (data : Byte)
  /-- Frame with register address 0xB (R93). -/
  | frameScanLimit (dontcare : BitVec 4) (data : Byte)
  /-- Frame with register address 0xC (R94). -/
  | frameShutdown (dontcare : BitVec 4) (data : Byte)
  /-- Frame with register address 0xF (R95). -/
  | frameDisplayTest (dontcare : BitVec 4) (data : Byte)
  deriving DecidableEq, Repr

/-- An encoded instruction: a command header on the command port (R70) or a frame in the chain (R80). -/
inductive CodeWord where
  | command (w : CmdWord)
  | frame (f : Frame)
  deriving DecidableEq, Repr

/-- The assembler's lines (R79): the seven commands, with the payload bytes of `copy` written out, and the seven
pseudo-instructions. A frame operand written `(a, d)` is `frame a d` (R80). -/
inductive AsmLine where
  | configure (n : Nat)
  | teardown
  | writeReg (k : Nat) (f : Frame)
  | writeAll (f : Frame)
  | fill (c l : Nat) (v : Byte)
  | copy (c l : Nat) (bytes : List Byte)
  | refresh
  | intensity (d : Byte)
  | shutdown (d : Byte)
  | displayTest (d : Byte)
  | decodeMode (d : Byte)
  | scanLimit (d : Byte)
  | clear (c l : Nat)
  | noopAll
  deriving DecidableEq, Repr

end Sys2Proof
end

