-- ==== Sys2Proof/WellFormed.lean ====
section
/-!
DEFINITION. Which instructions have an encoding: every numeric operand fits its 24-bit field (spec R10, R71, R72), and
a `copy` line lists exactly as many bytes as its length says (R79).
-/

namespace Sys2Proof

/-- The operand fits the field the format gives it (R72). Frames always fit: their operands are bit fields (R80). -/
def Instr.wellFormed : Instr → Bool
  | .configure n => n < fieldBound
  | .teardown => true
  | .writeRegister k _ => k < fieldBound
  | .writeAllRegisters _ => true
  | .updateBufferReplicate c l _ => c < fieldBound && l < fieldBound
  | .updateBufferSequence c l => c < fieldBound && l < fieldBound
  | .refresh => true
  | .frameNoop _ _ => true
  | .frameDigit0 _ _ => true
  | .frameDigit1 _ _ => true
  | .frameDigit2 _ _ => true
  | .frameDigit3 _ _ => true
  | .frameDigit4 _ _ => true
  | .frameDigit5 _ _ => true
  | .frameDigit6 _ _ => true
  | .frameDigit7 _ _ => true
  | .frameDecodeMode _ _ => true
  | .frameIntensity _ _ => true
  | .frameScanLimit _ _ => true
  | .frameShutdown _ _ => true
  | .frameDisplayTest _ _ => true

/-- The line can be assembled: operands fit, and "the list has exactly `L` bytes" (R79). -/
def AsmLine.wellFormed : AsmLine → Bool
  | .configure n => n < fieldBound
  | .teardown => true
  | .writeReg k _ => k < fieldBound
  | .writeAll _ => true
  | .fill c l _ => c < fieldBound && l < fieldBound
  | .copy c l bytes => c < fieldBound && l < fieldBound && bytes.length == l
  | .refresh => true
  | .intensity _ => true
  | .shutdown _ => true
  | .displayTest _ => true
  | .decodeMode _ => true
  | .scanLimit _ => true
  | .clear c l => c < fieldBound && l < fieldBound
  | .noopAll => true

end Sys2Proof
end

