-- ==== Sys2Proof/Decode.lean ====
section
/-!
DEFINITION. Decoding and encoding: command headers (spec R71 to R78), frames (R80 to R96), the payload of
UPDATE_BUFFER_SEQUENCE (R74) and the assembler (R79). Decoding is total and rejects by name.
-/

namespace Sys2Proof

/-- Why a word is no instruction. The first five are the clauses of R77; the last is R96. -/
inductive DecodeError where
  /-- R77(a): OP is 0x0 or 0x7 to 0xF. -/
  | reservedOpcode
  /-- R77(b): the RSV field is not zero. -/
  | reservedField
  /-- R77(c): M = 1 with OP other than 0x5. -/
  | modeBit
  /-- R77(d): a field its format marks 0 is not zero. -/
  | zeroField
  /-- R77(e): OP = 0x5, M = 1 and V is not zero. -/
  | sequenceByte
  /-- A frame with register address 0xD or 0xE, which the register map does not have (R96). -/
  | unmappedRegister
  deriving DecidableEq, Repr

/-! ## Frames -/

/-- `frame(a, d)`, "0x0, a[3:0], d[7:0]" from the most significant bit down (R14, R80). -/
def frame (a : BitVec 4) (d : Byte) : Frame := (0#4 ++ a) ++ d

/-- A frame's fields put together, don't-care nibble first (R80). -/
def rawFrame (dontcare a : BitVec 4) (d : Byte) : Frame := (dontcare ++ a) ++ d

/-- The don't-care nibble `f[15:12]` (R80). -/
def frameDontcare (f : Frame) : BitVec 4 := f.extractLsb' 12 4

/-- The register address `f[11:8]` (R81). -/
def frameAddr (f : Frame) : BitVec 4 := f.extractLsb' 8 4

/-- The data byte `f[7:0]` (R81). -/
def frameData (f : Frame) : Byte := f.extractLsb' 0 8

/-- The engine's no-op frame `0x0000` (R82). -/
def noopFrame : Frame := 0x0000#16

/-- `digit_reg(r) = r + 1` (R97); `r` is 0 to 7 wherever the engine uses it. -/
def digitReg (r : Nat) : BitVec 4 := BitVec.ofNat 4 (r + 1)

/-- Reads a frame as the chain does: by `f[11:8]`, ignoring `f[15:12]` (R81 to R96). -/
def decodeFrame (f : Frame) : Except DecodeError Instr :=
  let z := frameDontcare f
  let d := frameData f
  match (frameAddr f).toNat with
  | 0x0 => .ok (.frameNoop z d)
  | 0x1 => .ok (.frameDigit0 z d)
  | 0x2 => .ok (.frameDigit1 z d)
  | 0x3 => .ok (.frameDigit2 z d)
  | 0x4 => .ok (.frameDigit3 z d)
  | 0x5 => .ok (.frameDigit4 z d)
  | 0x6 => .ok (.frameDigit5 z d)
  | 0x7 => .ok (.frameDigit6 z d)
  | 0x8 => .ok (.frameDigit7 z d)
  | 0x9 => .ok (.frameDecodeMode z d)
  | 0xA => .ok (.frameIntensity z d)
  | 0xB => .ok (.frameScanLimit z d)
  | 0xC => .ok (.frameShutdown z d)
  | 0xF => .ok (.frameDisplayTest z d)
  | _ => .error .unmappedRegister

/-! ## Command headers -/

/-- OP, `w[63:60]` (R71). -/
def opField (w : CmdWord) : BitVec 4 := w.extractLsb' 60 4

/-- M, `w[59]` (R71). -/
def modeField (w : CmdWord) : BitVec 1 := w.extractLsb' 59 1

/-- RSV, `w[58:56]` (R71). -/
def rsvField (w : CmdWord) : BitVec 3 := w.extractLsb' 56 3

/-- A, `w[55:32]` (R71). -/
def aField (w : CmdWord) : BitVec 24 := w.extractLsb' 32 24

/-- L, `w[31:8]` (R72, format U). -/
def lField (w : CmdWord) : BitVec 24 := w.extractLsb' 8 24

/-- V, `w[7:0]` (R72, format U). -/
def vField (w : CmdWord) : Byte := w.extractLsb' 0 8

/-- `w[31:16]`, zero in formats N, C, W and B (R72). -/
def highHalf (w : CmdWord) : BitVec 16 := w.extractLsb' 16 16

/-- F, `w[15:0]` (R72, formats W and B). -/
def fField (w : CmdWord) : Frame := w.extractLsb' 0 16

/-- The low word `w[31:0]` (R71). -/
def lowField (w : CmdWord) : BitVec 32 := w.extractLsb' 0 32

/-- The decoding function of R78, total on every 64-bit word. OP = 0x5 is the only opcode with a mode (R71, R77); after the
opcodes 0x1 to 0x4 only 0x6 is left. -/
def decode (w : CmdWord) : Except DecodeError Instr :=
  if rsvField w ≠ 0 then .error .reservedField
  else if opField w = 0x5#4 then
    if modeField w = 0 then .ok (.updateBufferReplicate (aField w).toNat (lField w).toNat (vField w))
    else if vField w = 0 then .ok (.updateBufferSequence (aField w).toNat (lField w).toNat)
    else .error .sequenceByte
  else if opField w = 0x0#4 ∨ 0x7#4 ≤ opField w then .error .reservedOpcode
  else if modeField w ≠ 0 then .error .modeBit
  else if opField w = 0x1#4 then
    if lowField w = 0 then .ok (.configure (aField w).toNat) else .error .zeroField
  else if opField w = 0x2#4 then
    if aField w = 0 ∧ lowField w = 0 then .ok .teardown else .error .zeroField
  else if opField w = 0x3#4 then
    if highHalf w = 0 then .ok (.writeRegister (aField w).toNat (fField w)) else .error .zeroField
  else if opField w = 0x4#4 then
    if aField w = 0 ∧ highHalf w = 0 then .ok (.writeAllRegisters (fField w)) else .error .zeroField
  else if aField w = 0 ∧ lowField w = 0 then .ok .refresh
  else .error .zeroField

/-- Decodes an encoded instruction of either kind. -/
def decodeWord : CodeWord → Except DecodeError Instr
  | .command w => decode w
  | .frame f => decodeFrame f

/-- `ceil(a/b)` on natural numbers (R14). -/
def ceilDiv (a b : Nat) : Nat := (a + b - 1) / b

/-- `P = ceil(L/8)`, the number of payload words (R74). -/
def payloadWords (l : Nat) : Nat := ceilDiv l 8

/-- The length of a command in words, told from its header alone (R75). -/
def commandLength (w : CmdWord) : Nat :=
  match decode w with
  | .ok (.updateBufferSequence _ l) => 1 + payloadWords l
  | _ => 1

/-- The instruction read from a word of the opcode table: 16-bit rows are frames (R80), 64-bit rows are command headers
(R70). The command port takes a word as one unit and the chain takes a frame as one unit, so no byte order arises (R55). -/
def decodeTableWord (nbits w : Nat) : Option Instr :=
  if nbits ≤ 16 then (decodeFrame (BitVec.ofNat 16 w)).toOption else (decode (BitVec.ofNat 64 w)).toOption

/-! ## The encoder -/

/-- A header put together from its fields, most significant first (R71). -/
def header (op : BitVec 4) (m : BitVec 1) (a : BitVec 24) (low : BitVec 32) : CmdWord :=
  (((op ++ m) ++ 0#3) ++ a) ++ low

/-- A natural number as a 24-bit field (R72). -/
def field24 (n : Nat) : BitVec 24 := BitVec.ofNat 24 n

/-- The encoding of an instruction (R72, R76 for commands; R80 to R95 for frames). -/
def encode : Instr → CodeWord
  | .configure n => .command (header 0x1#4 0#1 (field24 n) 0#32)
  | .teardown => .command (header 0x2#4 0#1 0#24 0#32)
  | .writeRegister k f => .command (header 0x3#4 0#1 (field24 k) (0#16 ++ f))
  | .writeAllRegisters f => .command (header 0x4#4 0#1 0#24 (0#16 ++ f))
  | .updateBufferReplicate c l v => .command (header 0x5#4 0#1 (field24 c) (field24 l ++ v))
  | .updateBufferSequence c l => .command (header 0x5#4 1#1 (field24 c) (field24 l ++ 0#8))
  | .refresh => .command (header 0x6#4 0#1 0#24 0#32)
  | .frameNoop z d => .frame (rawFrame z 0x0#4 d)
  | .frameDigit0 z d => .frame (rawFrame z 0x1#4 d)
  | .frameDigit1 z d => .frame (rawFrame z 0x2#4 d)
  | .frameDigit2 z d => .frame (rawFrame z 0x3#4 d)
  | .frameDigit3 z d => .frame (rawFrame z 0x4#4 d)
  | .frameDigit4 z d => .frame (rawFrame z 0x5#4 d)
  | .frameDigit5 z d => .frame (rawFrame z 0x6#4 d)
  | .frameDigit6 z d => .frame (rawFrame z 0x7#4 d)
  | .frameDigit7 z d => .frame (rawFrame z 0x8#4 d)
  | .frameDecodeMode z d => .frame (rawFrame z 0x9#4 d)
  | .frameIntensity z d => .frame (rawFrame z 0xA#4 d)
  | .frameScanLimit z d => .frame (rawFrame z 0xB#4 d)
  | .frameShutdown z d => .frame (rawFrame z 0xC#4 d)
  | .frameDisplayTest z d => .frame (rawFrame z 0xF#4 d)

/-! ## Payload words -/

/-- The eight byte lanes of a payload word, most significant first (R74). -/
def lanes (w : CmdWord) : List Byte :=
  [w.extractLsb' 56 8, w.extractLsb' 48 8, w.extractLsb' 40 8, w.extractLsb' 32 8,
   w.extractLsb' 24 8, w.extractLsb' 16 8, w.extractLsb' 8 8, w.extractLsb' 0 8]

/-- Payload word `i` of a list of bytes, padding lanes zero (R74). -/
def packWord (bytes : List Byte) (i : Nat) : CmdWord :=
  let b := fun j => bytes.getD (8 * i + j) 0#8
  ((((((b 0 ++ b 1) ++ b 2) ++ b 3) ++ b 4) ++ b 5) ++ b 6) ++ b 7

/-- The payload words of a list of bytes, `ceil(L/8)` of them (R74). -/
def packPayload (bytes : List Byte) : List CmdWord :=
  (List.range (payloadWords bytes.length)).map (packWord bytes)

/-! ## The assembler (R79) -/

/-- The command an assembler line stands for, pseudo-instructions expanded (R79). -/
def AsmLine.instr : AsmLine → Instr
  | .configure n => .configure n
  | .teardown => .teardown
  | .writeReg k f => .writeRegister k f
  | .writeAll f => .writeAllRegisters f
  | .fill c l v => .updateBufferReplicate c l v
  | .copy c l _ => .updateBufferSequence c l
  | .refresh => .refresh
  | .intensity d => .writeAllRegisters (frame 0xA#4 d)
  | .shutdown d => .writeAllRegisters (frame 0xC#4 d)
  | .displayTest d => .writeAllRegisters (frame 0xF#4 d)
  | .decodeMode d => .writeAllRegisters (frame 0x9#4 d)
  | .scanLimit d => .writeAllRegisters (frame 0xB#4 d)
  | .clear c l => .updateBufferReplicate c l 0x00#8
  | .noopAll => .writeAllRegisters 0x0000#16

/-- The payload bytes an assembler line supplies (R79). -/
def AsmLine.payload : AsmLine → List Byte
  | .copy _ _ bytes => bytes
  | .configure _ => []
  | .teardown => []
  | .writeReg _ _ => []
  | .writeAll _ => []
  | .fill _ _ _ => []
  | .refresh => []
  | .intensity _ => []
  | .shutdown _ => []
  | .displayTest _ => []
  | .decodeMode _ => []
  | .scanLimit _ => []
  | .clear _ _ => []
  | .noopAll => []

/-- The command words an assembler line stands for: the header, then the payload words (R74, R79). -/
def AsmLine.words (l : AsmLine) : List CmdWord :=
  match encode l.instr with
  | .command w => w :: packPayload l.payload
  | .frame _ => []

/-- The written form of an assembler line (R79), numbers in decimal. -/
def AsmLine.text : AsmLine → String
  | .configure n => "configure " ++ toString n
  | .teardown => "teardown"
  | .writeReg k f => "write_reg " ++ toString k ++ ", " ++ toString f.toNat
  | .writeAll f => "write_all " ++ toString f.toNat
  | .fill c l v => "fill " ++ toString c ++ ", " ++ toString l ++ ", " ++ toString v.toNat
  | .copy c l bytes =>
    "copy " ++ toString c ++ ", " ++ toString l ++ ", ["
      ++ String.intercalate ", " (bytes.map fun b => toString b.toNat) ++ "]"
  | .refresh => "refresh"
  | .intensity d => "intensity " ++ toString d.toNat
  | .shutdown d => "shutdown " ++ toString d.toNat
  | .displayTest d => "display_test " ++ toString d.toNat
  | .decodeMode d => "decode_mode " ++ toString d.toNat
  | .scanLimit d => "scan_limit " ++ toString d.toNat
  | .clear c l => "clear " ++ toString c ++ ", " ++ toString l
  | .noopAll => "noop_all"

/-! ### Reading a line of source text (R79) -/

/-- A lexeme of a source line: a name or number, or a punctuation character. -/
inductive Lexeme where
  | text (cs : List Char)
  | mark (c : Char)
  deriving DecidableEq, Repr

/-- The characters of names and numbers. -/
def isTextChar (c : Char) : Bool :=
  (48 ≤ c.toNat && c.toNat ≤ 57) || (97 ≤ c.toNat && c.toNat ≤ 122) || (65 ≤ c.toNat && c.toNat ≤ 90) || c.toNat == 95

/-- The lexeme collected so far, if any; its characters were collected last first. -/
def flushText (acc : List Char) : List Lexeme := if acc = [] then [] else [.text acc.reverse]

/-- Cuts a line into lexemes: spaces separate, a semicolon starts a comment (as in the programs of 95_test_vectors). -/
def lexLine : List Char → List Char → List Lexeme
  | [], acc => flushText acc
  | c :: cs, acc =>
    if c = ';' then flushText acc
    else if isTextChar c then lexLine cs (c :: acc)
    else if c = ' ' then flushText acc ++ lexLine cs []
    else flushText acc ++ (.mark c :: lexLine cs [])

/-- A digit's value, hexadecimal letters included. -/
def digitValue (c : Char) : Option Nat :=
  if 48 ≤ c.toNat && c.toNat ≤ 57 then some (c.toNat - 48)
  else if 97 ≤ c.toNat && c.toNat ≤ 102 then some (c.toNat - 87)
  else if 65 ≤ c.toNat && c.toNat ≤ 70 then some (c.toNat - 55)
  else none

/-- Digits of a base after the value read so far. -/
def digitsFrom (base : Nat) : List Char → Nat → Option Nat
  | [], n => some n
  | c :: cs, n =>
    match digitValue c with
    | some d => if d < base then digitsFrom base cs (n * base + d) else none
    | none => none

/-- A number: decimal, or hexadecimal after `0x` (R79). -/
def readNumber (cs : List Char) : Option Nat :=
  if cs.take 2 = ['0', 'x'] then (if cs.drop 2 = [] then none else digitsFrom 16 (cs.drop 2) 0)
  else if cs = [] then none
  else digitsFrom 10 cs 0

/-- A number below a bound. -/
def readBelow (bound : Nat) (cs : List Char) : Option Nat :=
  (readNumber cs).bind fun n => if n < bound then some n else none

/-- A frame operand at the end of a line: `F`, or `(a, d)`, which is `frame(a, d)` (R79, R80). -/
def readFrame : List Lexeme → Option Frame
  | [.text f] => (readBelow (2 ^ 16) f).map (BitVec.ofNat 16)
  | [.mark p, .text a, .mark c, .text d, .mark q] =>
    if p = '(' ∧ c = ',' ∧ q = ')' then
      (readBelow 16 a).bind fun a' => (readBelow 256 d).map fun d' => frame (BitVec.ofNat 4 a') (BitVec.ofNat 8 d')
    else none
  | _ => none

/-- The rest of a byte list after its opening bracket: bytes separated by commas, then the closing bracket, and nothing
after it. DESIGN CHOICE (log 21): the last byte may be followed by a comma, and a list may be empty; R79 shows only
`[b0, b1, ...]`. -/
def readBytes : List Lexeme → Option (List Byte)
  | [.mark c] => if c = ']' then some [] else none
  | [.text b, .mark c] => if c = ']' then (readBelow 256 b).map fun n => [BitVec.ofNat 8 n] else none
  | .text b :: .mark c :: rest =>
    if c = ',' then (readBelow 256 b).bind fun n => (readBytes rest).map fun bs => BitVec.ofNat 8 n :: bs else none
  | _ => none

/-- The command or pseudo-instruction a name stands for, read with its operands (R79). -/
def readCommand (name : List Char) (ops : List Lexeme) : Option AsmLine :=
  let num24 := readBelow fieldBound
  let byte := fun (cs : List Char) => (readBelow 256 cs).map (BitVec.ofNat 8)
  let oneByte := fun (mk : Byte → AsmLine) => match ops with | [.text d] => (byte d).map mk | _ => none
  if name = "configure".toList then match ops with | [.text n] => (num24 n).map .configure | _ => none
  else if name = "teardown".toList then if ops = [] then some .teardown else none
  else if name = "refresh".toList then if ops = [] then some .refresh else none
  else if name = "noop_all".toList then if ops = [] then some .noopAll else none
  else if name = "write_all".toList then (readFrame ops).map .writeAll
  else if name = "write_reg".toList then
    match ops with
    | .text k :: .mark c :: rest =>
      if c = ',' then (num24 k).bind fun k' => (readFrame rest).map (.writeReg k') else none
    | _ => none
  else if name = "fill".toList then
    match ops with
    | [.text c, .mark p, .text l, .mark q, .text v] =>
      if p = ',' ∧ q = ',' then (num24 c).bind fun c' => (num24 l).bind fun l' => (byte v).map (.fill c' l') else none
    | _ => none
  else if name = "clear".toList then
    match ops with
    | [.text c, .mark p, .text l] =>
      if p = ',' then (num24 c).bind fun c' => (num24 l).map (.clear c') else none
    | _ => none
  else if name = "copy".toList then
    match ops with
    | .text c :: .mark p :: .text l :: .mark q :: .mark b :: rest =>
      if p = ',' ∧ q = ',' ∧ b = '[' then
        (num24 c).bind fun c' => (num24 l).bind fun l' => (readBytes rest).map (.copy c' l')
      else none
    | _ => none
  else if name = "intensity".toList then oneByte .intensity
  else if name = "shutdown".toList then oneByte .shutdown
  else if name = "display_test".toList then oneByte .displayTest
  else if name = "decode_mode".toList then oneByte .decodeMode
  else if name = "scan_limit".toList then oneByte .scanLimit
  else none

/-- Reads one line of source text; none where it is no line of R79 or its `copy` list is not `L` bytes long. -/
def readLine (line : String) : Option AsmLine :=
  match lexLine line.toList [] with
  | .text name :: ops => (readCommand name ops).bind fun l => if l.wellFormed then some l else none
  | _ => none

/-- The words of one line of source text (R79). -/
def assemble (line : String) : Option (List CmdWord) := (readLine line).map AsmLine.words

end Sys2Proof
end

