-- ==== Sys2Proof/Machine/State.lean ====
section
/-!
DEFINITION. The machine's state as plain data: the engine (spec R22), its ports, the external transport and chain of the
reference models (R39, R102, R107), what the host and the schedule still hold, and the state after reset (R41).
-/

namespace Sys2Proof.Machine

/-- The sequencer phase (R22, R36). -/
inductive Phase where
  | idle
  | collect
  | exec
  | faulted
  deriving DecidableEq, Repr

/-- The sequencer's micro-operations (R103 to R106). -/
inductive MicroOp where
  /-- BEGIN (R103). -/
  | beginTxn
  /-- SEND(f) (R104). -/
  | send (f : Frame)
  /-- END (R105). -/
  | endTxn
  /-- DESELECT (R106). -/
  | deselect
  deriving DecidableEq, Repr

/-- RESULT: the outcome of the last completed command (R27). Code 3 is reserved and never written, so it is no
constructor (93). -/
inductive Result where
  | ok
  | offsetError
  | bufferAllocationError
  deriving DecidableEq, Repr

/-- FAULT: the sticky fault code (R28). Codes 4 to 15 are reserved and never written (93). -/
inductive FaultCode where
  | none
  | unconfiguredUse
  | reconfigure
  | illegalCommand
  deriving DecidableEq, Repr

/-- `pend`: the accepted UPDATE_BUFFER_SEQUENCE header, the payload bytes received so far in order and the number of
payload words still due (R38). -/
structure Pending where
  offset : Nat
  length : Nat
  received : List Byte
  remaining : Nat
  deriving DecidableEq, Repr

/-- The events of the bus trace (R100). -/
inductive Event where
  | selLow
  | enq (f : Frame)
  | selHigh
  deriving DecidableEq, Repr

/-- What the host does on one of its turns (R243). -/
inductive HostAction where
  /-- Present a command-port word, header or payload (R34). -/
  | word (w : CmdWord)
  /-- Read STATUS (R29, R30). -/
  | readStatus
  /-- Assert `rst` (R35). -/
  | assertReset
  deriving DecidableEq, Repr

/-- Who moves on a turn (R18, R19). The chain moves inside the transport's shift and the engine's END (R107). -/
inductive Agent where
  | host
  | engine
  | transport
  deriving DecidableEq, Repr

/-- One chip of the external chain (R39, R107): its shift register `Shift[p]` and its registers `ChipReg[p][a]`,
register `a` = 1..15 at index `a − 1`. -/
structure Chip where
  shift : Frame
  regs : Vector Byte 15
  deriving DecidableEq, Repr

/-- The whole machine. The engine's architectural state is the first group, exactly the items of R22. -/
structure State where
  /-- A successful CONFIGURE has happened and no TEARDOWN since (R23). -/
  configured : Bool
  /-- The configured chain length, 0 when not configured (R24). -/
  N : Nat
  /-- The framebuffer storage: the offsets whose content is known, strictly rising. An unlisted offset is unspecified
  (R41, R69). -/
  fb : List Host.Cell
  /-- The select-line output: true is 1, inactive (R26). -/
  cs : Bool
  /-- The sequencer phase (R36). -/
  phase : Phase
  /-- The micro-program of the command in EXEC (R37). -/
  mprog : List MicroOp
  /-- The index of the next micro-operation (R21). -/
  mpc : Nat
  /-- The header awaiting its payload; present only in COLLECT (R38). -/
  pend : Option Pending
  /-- RESULT (R27). -/
  result : Result
  /-- FAULT (R28). -/
  fault : FaultCode
  /-- The reset input (R35): when it is 1 the next step is the reset (R230). -/
  rst : Bool
  /-- The parameters the block is built with (R11, R102). No step changes them. -/
  params : Params
  /-- The transport's queue, head first (R39(a), R102). -/
  queue : List Frame
  /-- The transport malfunctions or is disconnected: it reports busy and full and shifts nothing (R111, R233). -/
  stalled : Bool
  /-- The physical chain, position p = 1 (nearest the controller) first (R39(b), R39(c), R107). -/
  chips : List Chip
  /-- The bus trace, oldest event first (R100). -/
  trace : List Event
  /-- The STATUS words the host has read, oldest first (R243). -/
  statusReads : List StatusWord
  /-- What the host still does, in order: the command stream with STATUS reads and resets (R50(c), R243). -/
  host : List HostAction
  /-- The turns to come; after them `State.defaultAgent` chooses (R19, R113). -/
  sched : List Agent
  /-- The model's own: the physical position of the chip a latch edge is at. Log 7. -/
  latchPos : Nat
  /-- The model's own: which unspecified content the unlisted framebuffer offsets hold. Log 5. -/
  fbEpoch : Nat
  /-- The model's own: the counter free chip-register values are drawn with. Log 4. -/
  free : Nat
  deriving DecidableEq, Repr

/-- Why the machine stops. The faults of the spec (R204) are no stops: they are next states with FAULT written. -/
inductive Fault where
  /-- Raised by a payload word accepted in COLLECT while `pend` is absent, which R38 excludes and no run reaches.
  Safe: nothing can be proved of such a state's next state. Log 14. -/
  | noPendingHeader
  deriving DecidableEq, Repr

/-- Why an instruction has no meaning. -/
inductive Refusal where
  /-- An arm of `exec` that has no meaning yet. Safe. No arm of this model answers it. -/
  | notModelled (mnemonic : String)
  deriving DecidableEq, Repr

/-- The fifteen registers of a chip, each at its own free value, drawn from counter value `k` on. Log 4. -/
def freeRegs (k : Nat) : Vector Byte 15 :=
  #v[Config.freeByte k, Config.freeByte (k + 1), Config.freeByte (k + 2), Config.freeByte (k + 3),
     Config.freeByte (k + 4), Config.freeByte (k + 5), Config.freeByte (k + 6), Config.freeByte (k + 7),
     Config.freeByte (k + 8), Config.freeByte (k + 9), Config.freeByte (k + 10), Config.freeByte (k + 11),
     Config.freeByte (k + 12), Config.freeByte (k + 13), Config.freeByte (k + 14)]

/-- The machine right after reset: the engine as R41 and R230 say, the transport idle with an empty queue (R244), the
chain's registers any value (R41). The parameters, the chain's physical length and the empty scripts are the model's
choices (logs 1 to 6, 11, 15). -/
def State.reset : State :=
  { configured := false
    N := 0
    fb := []
    cs := true
    phase := .idle
    mprog := []
    mpc := 0
    pend := none
    result := .ok
    fault := .none
    rst := false
    params := { chainLenMax := 2 ^ 21, queueDepth := 1 }
    queue := []
    stalled := false
    chips := [{ shift := Config.freeFrame 0, regs := freeRegs 0 }]
    trace := []
    statusReads := []
    host := []
    sched := []
    latchPos := 1
    fbEpoch := 0
    free := 15 }

end Sys2Proof.Machine
end

