-- ==== Sys2Proof/Machine/Ops.lean ====
section
/-!
DEFINITION. The named operations over the state: framebuffer access (spec R51), the chain's shift and its registers
(R107), the transport's status and queue (R101, R102), the bus trace (R100), command completion (R36), raising a fault
(R205) and reset (R230).
-/

namespace Sys2Proof.Machine

/-! ## Outcomes -/

/-- Carry on with `k` from a next state; a fault or a refusal stands. -/
def andThen (o : Host.Outcome State Fault Refusal) (k : State → Host.Outcome State Fault Refusal) :
    Host.Outcome State Fault Refusal :=
  match o with
  | .next s => k s
  | .fault r => .fault r
  | .refused r => .refused r

/-! ## The framebuffer (R50, R51) -/

/-- The byte listed at an offset; none where the content is unspecified (R41, R69). -/
def fbLookup : List Host.Cell → Nat → Option Byte
  | [], _ => none
  | (a, b) :: rest, i => if a = i then some b else fbLookup rest i

/-- `FB[i] <- v` on the list of cells, keeping it strictly rising (R51). -/
def fbWrite : List Host.Cell → Nat → Byte → List Host.Cell
  | [], i, v => [(i, v)]
  | (a, b) :: rest, i, v =>
    if i < a then (i, v) :: (a, b) :: rest
    else if i = a then (i, v) :: rest
    else (a, b) :: fbWrite rest i v

/-- Writes the bytes to consecutive offsets from `c` on (R161, R163). -/
def fbWriteRun : List Host.Cell → Nat → List Byte → List Host.Cell
  | m, _, [] => m
  | m, c, b :: bs => fbWriteRun (fbWrite m c b) (c + 1) bs

/-- The canonical form of the framebuffer: strictly rising offsets. An unlisted offset is unspecified, which no listed
byte equals, so equal contents are equal lists. -/
def fbWf : List Host.Cell → Bool
  | [] => true
  | [_] => true
  | (a, _) :: (b, y) :: rest => a < b && fbWf ((b, y) :: rest)

/-- `FB[i]` as the engine reads it (R51): the listed byte, else the unspecified content of this epoch (R41, R69),
which is a free value. Log 5. -/
def State.fbByte (s : State) (i : Nat) : Byte :=
  match fbLookup s.fb i with
  | some b => b
  | none => Config.freeFbByte s.fbEpoch i

/-- The framebuffer after "every FB[i] <- unspecified" (R124) or reset (R230): nothing is known of it. -/
def State.fbForget (s : State) : State :=
  { s with fb := [], fbEpoch := s.fbEpoch + 1 }

/-! ## The bus trace -/

/-- `emit E` (R14, R100). -/
def State.emit (s : State) (e : Event) : State :=
  { s with trace := s.trace ++ [e] }

/-! ## The transport (R101, R102) -/

/-- `tx_busy`: frames are queued, or the transport is stalled (R102, R111). -/
def State.txBusy (s : State) : Bool := s.stalled || !s.queue.isEmpty

/-- `tx_full`: the queue holds `QDEPTH` frames, or the transport is stalled (R102, R111). -/
def State.txFull (s : State) : Bool := s.stalled || s.queue.length == s.params.queueDepth

/-- `tx_enq`: hands `tx_frame` to the transport's queue, one event for one frame (R32, R104). -/
def State.enqueue (s : State) (f : Frame) : State :=
  { s with queue := s.queue ++ [f] }

/-! ## The chain (R107) -/

/-- The chain's shift: `f` enters the nearest chip, every frame moves one place away, the last one leaves (R107). -/
def shiftIn : Frame → List Chip → List Chip
  | _, [] => []
  | f, c :: cs => { c with shift := f } :: shiftIn c.shift cs

/-- `ChipReg[a]` of one chip; register address 0 is no register (R39(c), R82). -/
def chipReg (c : Chip) (a : BitVec 4) : Option Byte :=
  if a = 0 then none else c.regs[a.toNat - 1]?

/-- `ChipReg[a] <- d` of one chip if `a ≠ 0`, nothing for `a = 0` (R107, R82). -/
def chipSet (c : Chip) (a : BitVec 4) (d : Byte) : Chip :=
  if a = 0 then c else { c with regs := c.regs.setIfInBounds (a.toNat - 1) d }

/-- The chip at physical position `p`, 1 nearest the controller (R16). -/
def State.chipAt (s : State) (p : Nat) : Option Chip :=
  match p with
  | 0 => none
  | q + 1 => s.chips[q]?

/-- The register `a` of the chip at physical position `p`: `ChipReg[p][a]` (R39(c)). -/
def State.chipReg (s : State) (p : Nat) (a : BitVec 4) : Option Byte :=
  (s.chipAt p).bind fun c => Machine.chipReg c a

/-- Changes the chip at physical position `p`; a position outside the chain names no chip. -/
def State.modifyChip (s : State) (p : Nat) (g : Chip → Chip) : State :=
  match p with
  | 0 => s
  | q + 1 => { s with chips := s.chips.modify q g }

/-- One chip takes `(a, d)` at the latch edge (R107): the chip the edge is at, `State.latchPos`. -/
def State.latchInto (s : State) (a : BitVec 4) (d : Byte) : State :=
  s.modifyChip s.latchPos fun c => chipSet c a d

/-- Every register of the chip at position `p` becomes any value (R96). -/
def State.forgetChip (s : State) (p : Nat) : State :=
  { s.modifyChip p (fun c => { c with regs := freeRegs s.free }) with free := s.free + 15 }

/-- Fresh free registers for every chip of a list, drawn from counter value `k` on. -/
def forgetRegs : Nat → List Chip → List Chip
  | _, [] => []
  | k, c :: cs => { c with regs := freeRegs k } :: forgetRegs (k + 15) cs

/-- Every register of every chip becomes any value (R231, R240). -/
def State.forgetAllChips (s : State) : State :=
  { s with chips := forgetRegs s.free s.chips, free := s.free + 15 * s.chips.length }

/-! ## Completion, faults and reset -/

/-- The command completes: RESULT is written and the phase is IDLE (R21, R27, R36). The sequencer position, which only
EXEC uses, returns to its reset value (log 12). -/
def State.complete (s : State) (r : Result) : State :=
  { s with phase := .idle, result := r, mprog := [], mpc := 0, pend := none }

/-- Runs a command's micro-program: `mpc` starts at 0 in EXEC (R21); an empty one completes in the accepting step
(R36). -/
def State.runProgram (s : State) (prog : List MicroOp) : State :=
  if prog = [] then s.complete .ok else { s with phase := .exec, mprog := prog, mpc := 0 }

/-- `raise Fault(code)`: FAULT and the phase are written and nothing else (R205, R209). -/
def State.raiseFault (s : State) (code : FaultCode) : State :=
  { s with fault := code, phase := .faulted }

/-- Reset (R230, R231): the engine's state takes the values of R41; `SelHigh` is emitted if `cs` was 0, and then the
chip registers are any value (log 10). DESIGN CHOICE, unsafe (log 23): the transport's queue, the chain's shift registers
and, where `cs` was 1, the chip registers are no engine state and stay, although R41 leaves them any value after a reset.
There is no return from a fault other than this (R210). -/
def State.applyReset (s : State) : State :=
  let t := if s.cs then s else (s.emit .selHigh).forgetAllChips
  { t.fbForget with
    configured := false, N := 0, cs := true, phase := .idle, mprog := [], mpc := 0, pend := none,
    result := .ok, fault := .none, rst := false }

end Sys2Proof.Machine
end

