-- ==== Sys2Proof/Machine/Operands.lean ====
section
/-!
DEFINITION. Operand forms: the acceptance checks every command makes (spec R207), chain-length normalisation (R122), the
validity of a chip offset (R141) and of a run (R160), the frames of a transaction (R140, R181) and the micro-programs
they make (R109), and the collection of payload bytes (R74).
-/

namespace Sys2Proof.Machine

/-- A header is accepted only in IDLE; in every other phase no header is accepted and nothing changes (R34, R36). -/
def State.accepting (s : State) (k : State) : Host.Outcome State Fault Refusal :=
  if s.phase = .idle then .next k else .next s

/-- The state check of every command but CONFIGURE (R207 step 2): UNCONFIGURED_USE when not configured (R204). -/
def State.needConfigured (s : State) (k : State) : Host.Outcome State Fault Refusal :=
  s.accepting (if s.configured then k else s.raiseFault .unconfiguredUse)

/-- The state check of CONFIGURE (R207 step 2): RECONFIGURE when configured (R126). -/
def State.needUnconfigured (s : State) (k : State) : Host.Outcome State Fault Refusal :=
  s.accepting (if s.configured then s.raiseFault .reconfigure else k)

/-- "a caller-supplied 0 is normalized up to 1" (R122). -/
def normalise (n : Nat) : Nat := if n = 0 then 1 else n

/-- `valid(c, L) := L > 0 and c + L - 1 < 8 * N`, on unbounded naturals (R160). -/
def validRun (n c l : Nat) : Bool := decide (0 < l) && decide (c + l - 1 < 8 * n)

/-- The logical chip offset of the frame sent for physical position `p`: `k = N − p` (R140). -/
def logicalOffset (n p : Nat) : Nat := n - p

/-- One frame for each physical position from `p` down to 1, in send order (R140). -/
def walk (g : Nat → Frame) : Nat → List Frame
  | 0 => []
  | p + 1 => g (p + 1) :: walk g p

/-- The frames of WRITE_REGISTER: `F` where `k = chipOffset`, a no-op frame elsewhere (R141). -/
def addressedFrames (n chipOffset : Nat) (f : Frame) : List Frame :=
  walk (fun p => if logicalOffset n p = chipOffset then f else noopFrame) n

/-- The frames of row `r` of REFRESH: `frame(digit_reg(r), FB[k*8 + r])` (R181). -/
def State.rowFrames (s : State) (r : Nat) : List Frame :=
  walk (fun p => frame (digitReg r) (s.fbByte (logicalOffset s.N p * 8 + r))) s.N

/-- `txn(f_1, ..., f_m)` (R109). -/
def txn (fs : List Frame) : List MicroOp :=
  MicroOp.beginTxn :: (fs.map MicroOp.send ++ [MicroOp.endTxn])

/-- `broadcast(f)`: a transaction of `N` copies of `f` (R109). -/
def broadcast (n : Nat) (f : Frame) : List MicroOp := txn (List.replicate n f)

/-- CONFIGURE's micro-program (R121): DESELECT, then the broadcasts that disable segment-decoding, set the scan limit to
all eight rows and disable test mode, in that order (R127; data values from D12, log 17). -/
def initProgram (n : Nat) : List MicroOp :=
  MicroOp.deselect ::
    (broadcast n (frame 0x9#4 0x00#8) ++ broadcast n (frame 0xB#4 0x07#8) ++ broadcast n (frame 0xF#4 0x00#8))

/-- REFRESH's micro-program: one transaction for each row 0 to 7 (R181). -/
def State.refreshProgram (s : State) : List MicroOp :=
  (List.range rows).flatMap fun r => txn (s.rowFrames r)

/-- An UPDATE_BUFFER's end once its bytes are known: OFFSET_ERROR and an unmodified buffer, or every byte written and OK
(R161 to R163). -/
def State.updateRun (s : State) (c l : Nat) (bytes : List Byte) : State :=
  if validRun s.N c l then { s with fb := fbWriteRun s.fb c bytes }.complete .ok
  else s.complete .offsetError

/-- The payload bytes after one more word: its lanes in order, those at or after byte `L` ignored (R74). -/
def collectBytes (p : Pending) (w : CmdWord) : List Byte := (p.received ++ lanes w).take p.length

/-- A payload word is accepted in COLLECT (R36, R163, R164): its bytes join those received; with the last word due the
command executes and completes in this step. A payload word without a pending header is in no reachable state (R38,
log 14). -/
def State.acceptPayload (s : State) (w : CmdWord) : Host.Outcome State Fault Refusal :=
  match s.pend with
  | none => .fault .noPendingHeader
  | some p =>
    if p.remaining ≤ 1 then .next (s.updateRun p.offset p.length (collectBytes p w))
    else .next { s with pend := some { p with received := collectBytes p w, remaining := p.remaining - 1 } }

end Sys2Proof.Machine
end

