-- ==== Sys2Proof/Machine/Flags.lean ====
section
/-!
DEFINITION. Everything derived from the state that the host sees: the result and fault codes (spec R27, R28), BUSY, the
STATUS word (R29) and `cmd_ready` (R34). The block has no condition codes (R31).
-/

namespace Sys2Proof.Machine

/-- The RESULT codes (R27). -/
def Result.code : Result → BitVec 2
  | .ok => 0#2
  | .offsetError => 1#2
  | .bufferAllocationError => 2#2

/-- The FAULT codes (R28). -/
def FaultCode.code : FaultCode → BitVec 4
  | .none => 0#4
  | .unconfiguredUse => 1#4
  | .reconfigure => 2#4
  | .illegalCommand => 3#4

/-- BUSY: 1 iff the phase is COLLECT or EXEC (R29). -/
def State.busy (s : State) : Bool := s.phase == .collect || s.phase == .exec

/-- The STATUS word: CHAIN_LEN[31:8], FAULT[7:4], RESULT[3:2], CONFIGURED[1], BUSY[0] (R29). -/
def State.status (s : State) : StatusWord :=
  (((BitVec.ofNat 24 s.N ++ s.fault.code) ++ s.result.code) ++ BitVec.ofBool s.configured) ++ BitVec.ofBool s.busy

/-- `cmd_ready`: 1 iff the phase is IDLE or COLLECT (R34). -/
def State.cmdReady (s : State) : Bool := s.phase == .idle || s.phase == .collect

end Sys2Proof.Machine
end

