-- ==== Sys2Proof/Machine/BufferUpdate.lean ====
section
/-!
DEFINITION. The framebuffer updates, UPDATE_BUFFER_REPLICATE and UPDATE_BUFFER_SEQUENCE (spec R160 to R169).
-/

namespace Sys2Proof.Machine

/-- UPDATE_BUFFER_REPLICATE `c`, `L`, `V` (R161): OFFSET_ERROR on an invalid run; else `V` in each of the `L` target
offsets. -/
def execUpdateBufferReplicate (c l : Nat) (v : Byte) (s : State) : Host.Outcome State Fault Refusal :=
  s.needConfigured
    (if validRun s.N c l then s.updateRun c l (List.replicate l v) else s.complete .offsetError)

/-- UPDATE_BUFFER_SEQUENCE `c`, `L`, its header (R163): with payload words due the engine collects them (R36, R38;
`State.acceptPayload` ends the command); with `L = 0` none is due and the command fails at once. -/
def execUpdateBufferSequence (c l : Nat) (s : State) : Host.Outcome State Fault Refusal :=
  s.needConfigured
    (if payloadWords l = 0 then s.updateRun c l []
    else
      { s with phase := .collect
               pend := some { offset := c, length := l, received := [], remaining := payloadWords l } })

end Sys2Proof.Machine
end

