-- ==== Sys2Proof/Machine/ChipWrite.lean ====
section
/-!
DEFINITION. The addressed write and the broadcast write, WRITE_REGISTER and WRITE_ALL_REGISTERS (spec R140 to R148).
-/

namespace Sys2Proof.Machine

/-- WRITE_REGISTER `chipOffset`, `F` (R141): OFFSET_ERROR and no transaction if `chipOffset ≥ N` (R142); else one
transaction with `F`, verbatim, in slot `chipOffset + 1` (R143, R144). -/
def execWriteRegister (chipOffset : Nat) (f : Frame) (s : State) : Host.Outcome State Fault Refusal :=
  s.needConfigured
    (if s.N ≤ chipOffset then s.complete .offsetError
    else s.runProgram (txn (addressedFrames s.N chipOffset f)))

/-- WRITE_ALL_REGISTERS `F` (R146): one broadcast of `F`, verbatim. -/
def execWriteAllRegisters (f : Frame) (s : State) : Host.Outcome State Fault Refusal :=
  s.needConfigured (s.runProgram (broadcast s.N f))

end Sys2Proof.Machine
end

