-- ==== Sys2Proof/Machine/Frames.lean ====
section
/-!
DEFINITION. The frames: what the chip a latch edge is at does with the frame in its shift register (spec R81 to R95,
R107). The don't-care nibble has no effect (R81).
-/

namespace Sys2Proof.Machine

/-- A no-op frame changes no chip register (R82, R107). -/
def execFrameNoop (_z : BitVec 4) (_d : Byte) (s : State) : Host.Outcome State Fault Refusal :=
  .next s

/-- DIGIT0, register address 0x1 (R83, R107). -/
def execFrameDigit0 (_z : BitVec 4) (d : Byte) (s : State) : Host.Outcome State Fault Refusal :=
  .next (s.latchInto 0x1#4 d)

/-- DIGIT1, register address 0x2 (R84, R107). -/
def execFrameDigit1 (_z : BitVec 4) (d : Byte) (s : State) : Host.Outcome State Fault Refusal :=
  .next (s.latchInto 0x2#4 d)

/-- DIGIT2, register address 0x3 (R85, R107). -/
def execFrameDigit2 (_z : BitVec 4) (d : Byte) (s : State) : Host.Outcome State Fault Refusal :=
  .next (s.latchInto 0x3#4 d)

/-- DIGIT3, register address 0x4 (R86, R107). -/
def execFrameDigit3 (_z : BitVec 4) (d : Byte) (s : State) : Host.Outcome State Fault Refusal :=
  .next (s.latchInto 0x4#4 d)

/-- DIGIT4, register address 0x5 (R87, R107). -/
def execFrameDigit4 (_z : BitVec 4) (d : Byte) (s : State) : Host.Outcome State Fault Refusal :=
  .next (s.latchInto 0x5#4 d)

/-- DIGIT5, register address 0x6 (R88, R107). -/
def execFrameDigit5 (_z : BitVec 4) (d : Byte) (s : State) : Host.Outcome State Fault Refusal :=
  .next (s.latchInto 0x6#4 d)

/-- DIGIT6, register address 0x7 (R89, R107). -/
def execFrameDigit6 (_z : BitVec 4) (d : Byte) (s : State) : Host.Outcome State Fault Refusal :=
  .next (s.latchInto 0x7#4 d)

/-- DIGIT7, register address 0x8 (R90, R107). -/
def execFrameDigit7 (_z : BitVec 4) (d : Byte) (s : State) : Host.Outcome State Fault Refusal :=
  .next (s.latchInto 0x8#4 d)

/-- DECODE_MODE, register address 0x9 (R91, R107). -/
def execFrameDecodeMode (_z : BitVec 4) (d : Byte) (s : State) : Host.Outcome State Fault Refusal :=
  .next (s.latchInto 0x9#4 d)

/-- INTENSITY, register address 0xA (R92, R107). -/
def execFrameIntensity (_z : BitVec 4) (d : Byte) (s : State) : Host.Outcome State Fault Refusal :=
  .next (s.latchInto 0xA#4 d)

/-- SCAN_LIMIT, register address 0xB (R93, R107). -/
def execFrameScanLimit (_z : BitVec 4) (d : Byte) (s : State) : Host.Outcome State Fault Refusal :=
  .next (s.latchInto 0xB#4 d)

/-- SHUTDOWN, register address 0xC (R94, R107). -/
def execFrameShutdown (_z : BitVec 4) (d : Byte) (s : State) : Host.Outcome State Fault Refusal :=
  .next (s.latchInto 0xC#4 d)

/-- DISPLAY_TEST, register address 0xF (R95, R107). -/
def execFrameDisplayTest (_z : BitVec 4) (d : Byte) (s : State) : Host.Outcome State Fault Refusal :=
  .next (s.latchInto 0xF#4 d)

end Sys2Proof.Machine
end

