-- ==== Sys2Proof/Machine/Lifecycle.lean ====
section
/-!
DEFINITION. The configuration and lifecycle commands, CONFIGURE and TEARDOWN (spec R120 to R128).
-/

namespace Sys2Proof.Machine

/-- The state CONFIGURE leaves once its length is accepted, before its micro-program runs: `N`, `configured` and the
zero-filled framebuffer (R121, R128). -/
def State.configureTo (s : State) (n : Nat) : State :=
  { s with N := n, configured := true, fb := fbWriteRun s.fb 0 (List.replicate (8 * n) 0x00#8) }

/-- CONFIGURE `n` (R121): RECONFIGURE when configured; normalise, then BUFFER_ALLOCATION_ERROR above the capacity
(R122, R123); else configure, zero-fill and run the initialisation program. -/
def execConfigure (n : Nat) (s : State) : Host.Outcome State Fault Refusal :=
  s.needUnconfigured
    (if normalise n ≤ s.params.chainLenMax then
      (s.configureTo (normalise n)).runProgram (initProgram (normalise n))
    else s.complete .bufferAllocationError)

/-- TEARDOWN (R124): unconfigured again, the framebuffer unspecified, RESULT = OK, no bus activity. -/
def execTeardown (s : State) : Host.Outcome State Fault Refusal :=
  s.needConfigured ({ s.fbForget with configured := false, N := 0 }.runProgram [])

end Sys2Proof.Machine
end

