-- ==== Sys2Proof/Machine/Refresh.lean ====
section
/-!
DEFINITION. REFRESH (spec R180 to R185).
-/

namespace Sys2Proof.Machine

/-- REFRESH (R181): eight transactions, one for each digit-row, one frame for each chip. -/
def execRefresh (s : State) : Host.Outcome State Fault Refusal :=
  s.needConfigured (s.runProgram s.refreshProgram)

end Sys2Proof.Machine
end

