-- ==== Sys2Proof/Machine/Dispatch.lean ====
section
/-!
DEFINITION. What each instruction does: one arm per constructor of Instr. A command's arm is the engine accepting that
header (spec R207); a frame's arm is one chip taking that frame at a latch edge (R107).
-/

namespace Sys2Proof.Machine

def exec (i : Instr) (s : State) : Host.Outcome State Fault Refusal :=
  match i with
  | .configure n => Sys2Proof.Machine.execConfigure n s
  | .teardown => Sys2Proof.Machine.execTeardown s
  | .writeRegister k f => Sys2Proof.Machine.execWriteRegister k f s
  | .writeAllRegisters f => Sys2Proof.Machine.execWriteAllRegisters f s
  | .updateBufferReplicate c l v => Sys2Proof.Machine.execUpdateBufferReplicate c l v s
  | .updateBufferSequence c l => Sys2Proof.Machine.execUpdateBufferSequence c l s
  | .refresh => Sys2Proof.Machine.execRefresh s
  | .frameNoop z d => Sys2Proof.Machine.execFrameNoop z d s
  | .frameDigit0 z d => Sys2Proof.Machine.execFrameDigit0 z d s
  | .frameDigit1 z d => Sys2Proof.Machine.execFrameDigit1 z d s
  | .frameDigit2 z d => Sys2Proof.Machine.execFrameDigit2 z d s
  | .frameDigit3 z d => Sys2Proof.Machine.execFrameDigit3 z d s
  | .frameDigit4 z d => Sys2Proof.Machine.execFrameDigit4 z d s
  | .frameDigit5 z d => Sys2Proof.Machine.execFrameDigit5 z d s
  | .frameDigit6 z d => Sys2Proof.Machine.execFrameDigit6 z d s
  | .frameDigit7 z d => Sys2Proof.Machine.execFrameDigit7 z d s
  | .frameDecodeMode z d => Sys2Proof.Machine.execFrameDecodeMode z d s
  | .frameIntensity z d => Sys2Proof.Machine.execFrameIntensity z d s
  | .frameScanLimit z d => Sys2Proof.Machine.execFrameScanLimit z d s
  | .frameShutdown z d => Sys2Proof.Machine.execFrameShutdown z d s
  | .frameDisplayTest z d => Sys2Proof.Machine.execFrameDisplayTest z d s

end Sys2Proof.Machine
end

