-- ==== Sys2Proof/Machine/Sequencer.lean ====
section
/-!
DEFINITION. The engine's turn in EXEC: the micro-operations BEGIN, SEND, END and DESELECT (spec R103 to R106), the latch
edge they end in (R107), and the transport's turn (R102).
-/

namespace Sys2Proof.Machine

/-! ## The latch edge (R107) -/

/-- The chip at position `p` takes the frame in its shift register: it decodes it and executes it. A frame whose register
address is in no row of the register map leaves that chip's registers any value (R96, log 8). -/
def State.latchChip (s : State) (p : Nat) : Host.Outcome State Fault Refusal :=
  match s.chipAt p with
  | none => .next s
  | some c =>
    match decodeFrame c.shift with
    | .ok i => exec i { s with latchPos := p }
    | .error _ => .next (s.forgetChip p)

/-- The `k` chips from position `p` on take their frames. It is one step: at `SelHigh` every chip latches at once. -/
def latchChips : Nat → Nat → State → Host.Outcome State Fault Refusal
  | 0, _, s => .next { s with latchPos := 1 }
  | k + 1, p, s => andThen (s.latchChip p) (latchChips k (p + 1))

/-- The latch edge: every chip latches (R107), or, where the configured `N` is not the physical length of the chain,
every chip register becomes any value (R240, log 9). -/
def State.latchEdge (s : State) : Host.Outcome State Fault Refusal :=
  if s.N = s.chips.length then latchChips s.chips.length 1 s else .next s.forgetAllChips

/-! ## Micro-operations -/

/-- What a micro-operation waits for: BEGIN and END for the transport to be idle, SEND for room in its queue (R31). -/
def State.held (s : State) : MicroOp → Bool
  | .beginTxn => s.txBusy
  | .send _ => s.txFull
  | .endTxn => s.txBusy
  | .deselect => false

/-- BEGIN: the select line goes active (R103). -/
def State.microBegin (s : State) : Host.Outcome State Fault Refusal :=
  .next { s.emit .selLow with cs := false, mpc := s.mpc + 1 }

/-- SEND(f): the frame is enqueued (R104). -/
def State.microSend (s : State) (f : Frame) : Host.Outcome State Fault Refusal :=
  .next { (s.enqueue f).emit (.enq f) with mpc := s.mpc + 1 }

/-- END: the select line goes inactive and the chain latches (R105, R107). -/
def State.microEnd (s : State) : Host.Outcome State Fault Refusal :=
  { s.emit .selHigh with cs := true, mpc := s.mpc + 1 }.latchEdge

/-- DESELECT: the select line is made inactive, without an event (R106). -/
def State.microDeselect (s : State) : Host.Outcome State Fault Refusal :=
  .next { s with cs := true, mpc := s.mpc + 1 }

/-- One micro-operation; while it is held nothing changes (R103 to R106). -/
def State.runMicro (s : State) (op : MicroOp) : Host.Outcome State Fault Refusal :=
  if s.held op then .next s
  else
    match op with
    | .beginTxn => s.microBegin
    | .send f => s.microSend f
    | .endTxn => s.microEnd
    | .deselect => s.microDeselect

/-- "When mpc equals the micro-program length, the command completes" (R21, R36). -/
def State.finish (s : State) : State :=
  if s.mpc = s.mprog.length then s.complete .ok else s

/-- The engine's turn: in EXEC exactly `mprog[mpc]` (R113); in every other phase nothing (R36). -/
def engineTurn (s : State) : Host.Outcome State Fault Refusal :=
  match s.phase with
  | .exec =>
    match s.mprog[s.mpc]? with
    | some op => andThen (s.runMicro op) fun t => .next t.finish
    | none => .next (s.complete .ok)
  | .idle => .next s
  | .collect => .next s
  | .faulted => .next s

/-- The transport's turn: `shift`, enabled when the queue is not empty (R102), hands the head to the chain (R107). -/
def transportTurn (s : State) : Host.Outcome State Fault Refusal :=
  if s.stalled then .next s
  else
    match s.queue with
    | [] => .next s
    | f :: q => .next { s with queue := q, chips := shiftIn f s.chips }

end Sys2Proof.Machine
end

