-- ==== Sys2Proof/Machine/Port.lean ====
section
/-!
DEFINITION. The command port and the host's turn (spec R34, R36, R243), whose turn it is (R19, R113), and placing an
instruction where the next step takes it.
-/

namespace Sys2Proof.Machine

/-- A header is accepted in IDLE: decode first (R207 step 1), an illegal header raises ILLEGAL_COMMAND (R77). -/
def State.acceptHeader (s : State) (w : CmdWord) : Host.Outcome State Fault Refusal :=
  match decode w with
  | .ok i => exec i s
  | .error _ => .next (s.raiseFault .illegalCommand)

/-- The host presents a word (R34): a header in IDLE, payload in COLLECT; in EXEC and FAULTED it is not accepted and the
host goes on presenting it. `rest` is what the host does after the word is accepted. -/
def State.presentWord (s : State) (w : CmdWord) (rest : List HostAction) : Host.Outcome State Fault Refusal :=
  match s.phase with
  | .idle => { s with host := rest }.acceptHeader w
  | .collect => { s with host := rest }.acceptPayload w
  | .exec => .next s
  | .faulted => .next s

/-- The host's turn: its next interaction (R243). Reading STATUS has no side effect on the block (R30). -/
def hostTurn (s : State) : Host.Outcome State Fault Refusal :=
  match s.host with
  | [] => .next s
  | .word w :: rest => s.presentWord w rest
  | .readStatus :: rest => .next { s with host := rest, statusReads := s.statusReads ++ [s.status] }
  | .assertReset :: rest => .next { s with host := rest, rst := true }

/-- The agent's step (R18, R19). -/
def agentTurn (a : Agent) (s : State) : Host.Outcome State Fault Refusal :=
  match a with
  | .host => hostTurn s
  | .engine => engineTurn s
  | .transport => transportTurn s

/-- The engine can run its next micro-operation. -/
def State.engineReady (s : State) : Bool :=
  s.phase == .exec &&
    match s.mprog[s.mpc]? with
    | some op => !s.held op
    | none => true

/-- The transport can shift (R102). -/
def State.transportReady (s : State) : Bool := !s.stalled && !s.queue.isEmpty

/-- Who moves where the schedule says nothing: the engine if it can, else the transport if it can, else the host. It
keeps the fairness of R246(a). Log 1. -/
def State.defaultAgent (s : State) : Agent :=
  if s.engineReady then .engine else if s.transportReady then .transport else .host

/-- One step: an asserted reset wins (R208, R230); else the next turn of the schedule. -/
def oneStep (s : State) : Host.Outcome State Fault Refusal :=
  if s.rst then .next s.applyReset
  else
    match s.sched with
    | a :: rest => agentTurn a { s with sched := rest }
    | [] => agentTurn s.defaultAgent s

/-- `s` with the command word as the host's next word, the engine IDLE and the next turn the host's. -/
def State.placeCommand (s : State) (w : CmdWord) : State :=
  { s with rst := false, phase := .idle, mprog := [], mpc := 0, pend := none
           host := .word w :: s.host, sched := .host :: s.sched }

/-- `s` with the frame in the shift register of the one chip of a chain of one, the transport idle, and the engine about
to run the END of a transaction: the next step is the latch edge at which the chip takes exactly this frame. -/
def State.placeFrame (s : State) (f : Frame) : State :=
  { s with rst := false, configured := true, N := 1, phase := .exec, mprog := [.endTxn], mpc := 0, pend := none, cs := false
           queue := [], stalled := false
           chips := [{ shift := f, regs := ((s.chips.head?).map Chip.regs).getD (freeRegs 0) }]
           sched := .engine :: s.sched }

end Sys2Proof.Machine
end

