-- ==== Sys2Proof/Machine/Step.lean ====
section
/-!
DEFINITION. The step of the machine and the placing of an instruction for it. Both only call Machine/Port.lean.
-/

namespace Sys2Proof.Machine

/-- One step of the machine (spec R19). -/
def step (s : State) : Host.Outcome State Fault Refusal := oneStep s

/-- `s` with an instruction of the opcode table placed so that the next step runs it: a 64-bit row on the command port,
a 16-bit row in the chain. A header's payload words are no part of the table's word and are not placed (R74). Log 16. -/
def State.withFetchWord (s : State) (nbits w : Nat) : State :=
  if nbits ≤ 16 then s.placeFrame (BitVec.ofNat 16 w) else s.placeCommand (BitVec.ofNat 64 w)

end Sys2Proof.Machine
end

