-- ==== Sys2Proof/Safety.lean ====
section
/-!
DEFINITION. The conditions claims are stated with: clean entry and end of a run (spec R244, R247), the length premise
(R240), the discipline of transactions (R109, R110) and of the bus trace (R64, R108), and the machine's invariant.
-/

namespace Sys2Proof.Machine

/-- "clean entry" (R244): the engine's state of R230, the transport idle with an empty queue, no fault recorded. -/
abbrev State.cleanEntry (s : State) : Prop :=
  s.configured = false ∧ s.N = 0 ∧ s.cs = true ∧ s.phase = .idle ∧ s.mprog = [] ∧ s.mpc = 0 ∧ s.pend = none ∧
    s.result = .ok ∧ s.fault = .none ∧ s.rst = false ∧ s.queue = [] ∧ s.stalled = false

/-- The length premise: the configured `N` is the number of chips physically in the chain (R240). -/
abbrev State.lengthMatches (s : State) : Prop := s.N = s.chips.length

/-- The host has presented every command word it holds. -/
def noWordLeft : List HostAction → Bool
  | [] => true
  | .word _ :: _ => false
  | .readStatus :: rest => noWordLeft rest
  | .assertReset :: rest => noWordLeft rest

/-- "End of a run" (R247): every command word accepted, IDLE, no fault, the transport idle. -/
abbrev State.runEnded (s : State) : Prop :=
  noWordLeft s.host = true ∧ s.phase = .idle ∧ s.fault = .none ∧ s.txBusy = false

/-- Whose turn the next step is, and the state that turn starts from: the schedule's next entry used up, or the default
agent where the schedule is empty (R19, R113). -/
def State.turnOf (s : State) : Agent × State :=
  match s.sched with
  | a :: rest => (a, { s with sched := rest })
  | [] => (s.defaultAgent, s)

/-- The commands that need a configured engine: every command but CONFIGURE (R204). -/
def needsConfigured : Instr → Bool
  | .teardown => true
  | .writeRegister _ _ => true
  | .writeAllRegisters _ => true
  | .updateBufferReplicate _ _ _ => true
  | .updateBufferSequence _ _ => true
  | .refresh => true
  | .configure _ => false
  | .frameNoop _ _ => false
  | .frameDigit0 _ _ => false
  | .frameDigit1 _ _ => false
  | .frameDigit2 _ _ => false
  | .frameDigit3 _ _ => false
  | .frameDigit4 _ _ => false
  | .frameDigit5 _ _ => false
  | .frameDigit6 _ _ => false
  | .frameDigit7 _ _ => false
  | .frameDecodeMode _ _ => false
  | .frameIntensity _ _ => false
  | .frameScanLimit _ _ => false
  | .frameShutdown _ _ => false
  | .frameDisplayTest _ _ => false

/-- The host asserts no reset in what it still does. -/
def noResetLeft : List HostAction → Bool
  | [] => true
  | .word _ :: rest => noResetLeft rest
  | .readStatus :: rest => noResetLeft rest
  | .assertReset :: _ => false

/-- The frames a list of micro-operations sends, in order. -/
def sends : List MicroOp → List Frame
  | [] => []
  | .send f :: ops => f :: sends ops
  | .beginTxn :: ops => sends ops
  | .endTxn :: ops => sends ops
  | .deselect :: ops => sends ops

/-! ## Transactions in a micro-program (R109, R110) -/

/-- Where a micro-program stands: outside a transaction, or inside one with `k` frames sent. -/
inductive Gate where
  | closed
  | opened (k : Nat)
  deriving DecidableEq, Repr

/-- One micro-operation against the rules of composition for chain length `n`: BEGIN and DESELECT only outside a
transaction, SEND only inside, END only after exactly `n` frames (R109, R110). -/
def gateOp (n : Nat) : Gate → MicroOp → Option Gate
  | .closed, .beginTxn => some (.opened 0)
  | .closed, .deselect => some .closed
  | .opened k, .send _ => some (.opened (k + 1))
  | .opened k, .endTxn => if k = n then some .closed else none
  | .closed, .send _ => none
  | .closed, .endTxn => none
  | .opened _, .beginTxn => none
  | .opened _, .deselect => none

/-- A list of micro-operations against those rules; none where it breaks one. -/
def gateRun (n : Nat) : Gate → List MicroOp → Option Gate
  | g, [] => some g
  | g, op :: ops =>
    match gateOp n g op with
    | some g' => gateRun n g' ops
    | none => none

/-! ## The bus trace (R64, R100, R108) -/

/-- The select line's level after an event, none where the event cannot occur at that level: `SelLow` is 1 to 0, `SelHigh`
is 0 to 1, frames are enqueued only at level 0. -/
def busStep : Bool → Event → Option Bool
  | true, .selLow => some false
  | false, .enq _ => some false
  | false, .selHigh => some true
  | true, .enq _ => none
  | true, .selHigh => none
  | false, .selLow => none

/-- The select line's level after a trace that starts at the given level. -/
def busRun : Bool → List Event → Option Bool
  | l, [] => some l
  | l, e :: es =>
    match busStep l e with
    | some l' => busRun l' es
    | none => none

/-! ## The invariant -/

/-- The configuration is coherent: the parameters are legal, `1 ≤ N ≤ CHAIN_LEN_MAX` while configured and `N = 0` while
not (R11, R24). -/
abbrev State.configInv (s : State) : Prop :=
  s.params.wf ∧ (if s.configured then 1 ≤ s.N ∧ s.N ≤ s.params.chainLenMax else s.N = 0)

/-- The framebuffer is canonical and exactly the offsets `[0, 8·N)` have known content (R50, R61, R128). -/
abbrev State.fbInv (s : State) : Prop :=
  fbWf s.fb = true ∧ (∀ x ∈ s.fb, x.1 < 8 * s.N) ∧ ∀ i < 8 * s.N, (fbLookup s.fb i).isSome = true

/-- A pending header owes at least one payload word and has received eight bytes for each word that came (R38, R74). -/
abbrev pendOk (p : Pending) : Prop :=
  1 ≤ p.remaining ∧ p.remaining ≤ payloadWords p.length ∧
    p.received.length = 8 * (payloadWords p.length - p.remaining)

/-- In EXEC the rest of the micro-program closes the transaction it is in, and `cs` is 0 exactly inside one
(R108 to R110). -/
def State.execOk (s : State) : Bool :=
  decide (s.mpc < s.mprog.length) &&
    (match gateRun s.N .closed (s.mprog.take s.mpc) with
      | some g => s.cs == decide (g = Gate.closed)
      | none => false) &&
    decide (gateRun s.N .closed s.mprog = some .closed)

/-- Outside EXEC no micro-program is loaded and the select line is inactive (R108). -/
abbrev State.quiet (s : State) : Prop := s.mprog = [] ∧ s.mpc = 0 ∧ s.cs = true

/-- The phase agrees with `pend`, `fault`, `configured`, the micro-program and the select line (R22, R36, R38, R108). -/
def State.phaseInv (s : State) : Prop :=
  match s.phase with
  | .idle => s.pend = none ∧ s.fault = .none ∧ s.quiet
  | .collect => s.fault = .none ∧ s.configured = true ∧ s.quiet ∧ ∃ p, s.pend = some p ∧ pendOk p
  | .exec => s.pend = none ∧ s.fault = .none ∧ s.configured = true ∧ s.execOk = true
  | .faulted => s.pend = none ∧ s.fault ≠ .none ∧ s.quiet

/-- The machine's invariant: the five parts above, the bus trace ends at the level of `cs`, the transport's queue is
within its depth (R102). -/
structure State.Inv (s : State) : Prop where
  config : s.configInv
  fbOk : s.fbInv
  phaseOk : s.phaseInv
  bus : busRun true s.trace = some s.cs
  depth : s.queue.length ≤ s.params.queueDepth

end Sys2Proof.Machine
end

