-- ==== Sys2Proof/Certificates/Slice0/Obligations.lean ====
section
/-!
DEFINITION. The statements for the provers, file by file of spec/. `s.turnOf = (a, u)` says that the next turn is `a`'s and
starts from `u`, which is `s` with that turn taken off the schedule.
-/

open Sys2Proof Sys2Proof.Machine

/-! ## Encodings (30_encoding.md) -/

/-- Every well-formed instruction is what its encoding decodes to (R72, R76, R78, R80 to R95). -/
def Obligations.DecodeOfEncodeIsIdentity : Prop :=
  ∀ i : Instr, i.wellFormed = true → decodeWord (encode i) = .ok i

/-- Every word that decodes is the encoding of what it decodes to: no word has a second spelling. -/
def Obligations.EncodeOfDecodeIsIdentity : Prop :=
  ∀ (c : CodeWord) (i : Instr), decodeWord c = .ok i → i.wellFormed = true ∧ encode i = c

/-- R77: the illegal headers are exactly those of its clauses (a) to (e), an illegal header raises ILLEGAL_COMMAND, and a
payload word is never decoded as a header. -/
def Obligations.IllegalHeadersAreThoseOfR77 : Prop :=
  (∀ w : CmdWord, (∃ e, decode w = .error e) ↔
    ((w.extractLsb' 60 4).toNat = 0 ∨ 7 ≤ (w.extractLsb' 60 4).toNat) ∨
    w.extractLsb' 56 3 ≠ 0 ∨
    (w.extractLsb' 59 1 = 1 ∧ (w.extractLsb' 60 4).toNat ≠ 5) ∨
    ((w.extractLsb' 60 4).toNat = 1 ∧ w.extractLsb' 0 32 ≠ 0) ∨
    ((w.extractLsb' 60 4).toNat = 2 ∧ w.extractLsb' 0 56 ≠ 0) ∨
    ((w.extractLsb' 60 4).toNat = 3 ∧ w.extractLsb' 16 16 ≠ 0) ∨
    ((w.extractLsb' 60 4).toNat = 4 ∧ w.extractLsb' 16 40 ≠ 0) ∨
    ((w.extractLsb' 60 4).toNat = 6 ∧ w.extractLsb' 0 56 ≠ 0) ∨
    ((w.extractLsb' 60 4).toNat = 5 ∧ w.extractLsb' 59 1 = 1 ∧ w.extractLsb' 0 8 ≠ 0)) ∧
  (∀ (s u : State) (w : CmdWord) (e : DecodeError) (rest : List HostAction),
    s.rst = false → s.turnOf = (.host, u) → u.host = .word w :: rest → u.phase = .idle → decode w = .error e →
    step s = .next { u with host := rest, fault := .illegalCommand, phase := .faulted }) ∧
  (∀ (s u : State) (w : CmdWord) (rest : List HostAction),
    s.rst = false → s.turnOf = (.host, u) → u.host = .word w :: rest → u.phase = .collect →
    step s = ({ u with host := rest } : State).acceptPayload w)

/-- R99: the two worked encodings, and that they decode to what they encode. -/
def Obligations.WorkedEncodingsDecode : Prop :=
  encode (.configure 3) = .command 0x1000000300000000#64 ∧
  decode 0x1000000300000000#64 = .ok (.configure 3) ∧
  encode (.writeRegister 1 (frame 0xA#4 0x0F#8)) = .command 0x3000000100000A0F#64 ∧
  decode 0x3000000100000A0F#64 = .ok (.writeRegister 1 0x0A0F#16) ∧
  opField 0x3000000100000A0F#64 = 0x3#4 ∧ aField 0x3000000100000A0F#64 = 1#24 ∧
  fField 0x3000000100000A0F#64 = 0x0A0F#16

/-- One word of each family, written out from the spec's encodings (95_test_vectors ENC and the programs), decodes to its
instruction. -/
def Obligations.VectorWordsDecode : Prop :=
  decode 0x2000000000000000#64 = .ok .teardown ∧
  decode 0x4000000000000C01#64 = .ok (.writeAllRegisters 0x0C01#16) ∧
  decode 0x50000003000002FF#64 = .ok (.updateBufferReplicate 3 2 0xFF#8) ∧
  decode 0x5800000000001000#64 = .ok (.updateBufferSequence 0 16) ∧
  commandLength 0x5800000000001000#64 = 3 ∧
  decode 0x6000000000000000#64 = .ok .refresh ∧
  decodeFrame 0x0A0F#16 = .ok (.frameIntensity 0x0#4 0x0F#8) ∧
  decodeFrame 0xF10A#16 = .ok (.frameDigit0 0xF#4 0x0A#8)

/-- R74, the packing: the payload words of a list of `L` bytes are `ceil(L/8)` many, lane `j` of a word is its bits
`63 − 8j` to `56 − 8j`, and the lanes read in order, the padding dropped, are the bytes. -/
def Obligations.PayloadLanesAreTheBytes : Prop :=
  (∀ (w : CmdWord) (j : Nat), j < 8 → (lanes w)[j]? = some (w.extractLsb' (56 - 8 * j) 8)) ∧
  (∀ bytes : List Byte,
    (packPayload bytes).length = (bytes.length + 7) / 8 ∧
    ((packPayload bytes).flatMap lanes).take bytes.length = bytes)

/-- The frames the register map has no row for are exactly those with register address 0xD or 0xE (R96), and the fields of
a frame are its nibbles and its low byte (R80, R81). -/
def Obligations.FramesOutsideTheRegisterMap : Prop :=
  (∀ f : Frame, decodeFrame f = .error .unmappedRegister ↔
    f.extractLsb' 8 4 = 0xD#4 ∨ f.extractLsb' 8 4 = 0xE#4) ∧
  (∀ (f : Frame) (e : DecodeError), decodeFrame f = .error e → e = .unmappedRegister) ∧
  (∀ (z a : BitVec 4) (d : Byte), frameDontcare (rawFrame z a d) = z ∧ frameAddr (rawFrame z a d) = a ∧
    frameData (rawFrame z a d) = d)

/-! ## State, status and the command port (10_state.md) -/

/-- The reset state is a clean entry with `cmd_ready = 1` and STATUS `0x00000000` (vector RS-1), and nothing is known of
the framebuffer. The model's choice in it: the empty queue and the working transport (log 6; R41 leaves the queue any
value), the reset input at 0 (log 11) and the empty host script (log 15), on which `cleanEntry` and `runEnded` rest. The
parameters and the length of the physical chain are its choice too (logs 2, 3); nothing here rests on those. -/
def Obligations.ResetStateIsCleanEntry : Prop :=
  State.reset.cleanEntry ∧ State.reset.cmdReady = true ∧ State.reset.status = 0x00000000#32 ∧
  State.reset.runEnded ∧ ∀ i, fbLookup State.reset.fb i = none

/-- The fields of STATUS stand where R29 puts them, with the codes of R27 and R28; FAULT is non-zero exactly in FAULTED. -/
def Obligations.StatusWordFields : Prop :=
  (∀ s : State, s.Inv →
    (s.status.extractLsb' 8 24).toNat = s.N ∧
    s.status.extractLsb' 4 4 =
      (match s.fault with | .none => 0#4 | .unconfiguredUse => 1#4 | .reconfigure => 2#4 | .illegalCommand => 3#4) ∧
    s.status.extractLsb' 2 2 =
      (match s.result with | .ok => 0#2 | .offsetError => 1#2 | .bufferAllocationError => 2#2) ∧
    (s.status.extractLsb' 1 1 = 1#1 ↔ s.configured = true) ∧
    (s.status.extractLsb' 0 1 = 1#1 ↔ s.phase = .collect ∨ s.phase = .exec) ∧
    (s.status.extractLsb' 4 4 ≠ 0#4 ↔ s.phase = .faulted))

/-- R30: reading STATUS has no side effect on the block, in any phase; the host gets the word. -/
def Obligations.StatusReadHasNoSideEffect : Prop :=
  ∀ (s u : State) (rest : List HostAction),
    s.rst = false → s.turnOf = (.host, u) → u.host = .readStatus :: rest →
    step s = .next { u with host := rest, statusReads := u.statusReads ++ [u.status] }

/-- A step runs the decoded instruction: a header presented in IDLE is executed on the state with that word and that turn
used up; at the END of a transaction on a chain of one, the chip's frame is executed between END's own effect and the
command's completion (in END's own step, log 12). That exec of a frame acts on the chip at `latchPos`, and that the latch
edge walks `latchPos` inside END's step and leaves it at 1, is the model's choice (log 7, DESIGN CHOICE); `latchPos` is
the model's own field. -/
def Obligations.StepRunsTheDecodedInstruction : Prop :=
  (∀ (s u : State) (w : CmdWord) (i : Instr) (rest : List HostAction),
    s.rst = false → s.turnOf = (.host, u) → u.host = .word w :: rest → u.phase = .idle → decode w = .ok i →
    step s = exec i { u with host := rest }) ∧
  (∀ (s u : State) (c : Chip) (i : Instr),
    s.rst = false → s.turnOf = (.engine, u) → u.phase = .exec → u.mprog[u.mpc]? = some .endTxn → u.txBusy = false →
    u.chips = [c] → u.N = 1 → decodeFrame c.shift = .ok i →
    step s = andThen (exec i { u with cs := true, trace := u.trace ++ [.selHigh], mpc := u.mpc + 1, latchPos := 1 })
      (fun t => .next ({ t with latchPos := 1 } : State).finish)) ∧
  (∀ (s : State) (p : Nat) (c : Chip) (i : Instr),
    s.chipAt p = some c → decodeFrame c.shift = .ok i → s.latchChip p = exec i { s with latchPos := p })

/-- In EXEC and FAULTED no word is accepted: the host's turn changes nothing and the word stays presented; `cmd_ready` is 1
exactly in IDLE and COLLECT. The third clause is the model's (log 13, DEDUCED), not a rule of the spec: a command executed
outside IDLE, which no step does, changes nothing. -/
def Obligations.NoWordAcceptedWhileBusyOrFaulted : Prop :=
  (∀ (s u : State) (w : CmdWord) (rest : List HostAction),
    s.rst = false → s.turnOf = (.host, u) → u.host = .word w :: rest → u.phase = .exec ∨ u.phase = .faulted →
    step s = .next u) ∧
  (∀ s : State, s.cmdReady = true ↔ s.phase = .idle ∨ s.phase = .collect) ∧
  (∀ (s : State) (i : Instr) (n : Nat), s.phase ≠ .idle → needsConfigured i = true ∨ i = .configure n →
    exec i s = .next s)

/-! ## Lifecycle (41_lifecycle.md) -/

/-- CONFIGURE within capacity: the chain length, the configured bit, the zero-filled framebuffer and the micro-program of
three broadcasts (their data bytes are D12's, log 17), and nothing else. -/
def Obligations.ConfigureConfigures : Prop :=
  ∀ (s : State) (n m : Nat), m = (if n = 0 then 1 else n) →
    s.phase = .idle → s.configured = false → m ≤ s.params.chainLenMax →
    ∃ (cells : List Host.Cell) (prog : List MicroOp),
      exec (.configure n) s =
        .next { s with N := m, configured := true, fb := cells, phase := .exec, mprog := prog, mpc := 0 } ∧
      (∀ i, fbLookup cells i = if i < 8 * m then some 0x00#8 else fbLookup s.fb i) ∧
      prog = [.deselect] ++
        ([.beginTxn] ++ List.replicate m (.send 0x0900#16) ++ [.endTxn]) ++
        ([.beginTxn] ++ List.replicate m (.send 0x0B07#16) ++ [.endTxn]) ++
        ([.beginTxn] ++ List.replicate m (.send 0x0F00#16) ++ [.endTxn]) ∧
      prog.length = 3 * m + 7

/-- R122: a length of 0 is normalised to 1 before the capacity check, so it always succeeds when unconfigured; the buffer
then has 8 bytes. -/
def Obligations.ConfigureZeroIsConfigureOne : Prop :=
  ∀ s : State, s.Inv → s.phase = .idle → s.configured = false →
    exec (.configure 0) s = exec (.configure 1) s ∧
    ∃ t, exec (.configure 0) s = .next t ∧ t.N = 1 ∧ t.configured = true ∧ t.phase = .exec ∧
      ∀ i, (fbLookup t.fb i).isSome = true ↔ i < 8

/-- R123: beyond capacity the engine is left unconfigured with RESULT = 2 and nothing else changed; a later CONFIGURE is
legal, any other command faults with UNCONFIGURED_USE. -/
def Obligations.ConfigureBeyondCapacity : Prop :=
  ∀ (s : State) (n : Nat), s.Inv → s.phase = .idle → s.configured = false →
    s.params.chainLenMax < (if n = 0 then 1 else n) →
    exec (.configure n) s = .next { s with result := .bufferAllocationError } ∧
    (∀ m, 1 ≤ m → m ≤ s.params.chainLenMax →
      ∃ t, exec (.configure m) { s with result := .bufferAllocationError } = .next t ∧ t.configured = true ∧ t.N = m) ∧
    (∀ i, needsConfigured i = true →
      exec i { s with result := .bufferAllocationError } =
        .next { s with result := .bufferAllocationError, fault := .unconfiguredUse, phase := .faulted })

/-- R126: CONFIGURE while configured raises RECONFIGURE; TEARDOWN and then CONFIGURE changes the chain length. -/
def Obligations.ReconfigureFaults : Prop :=
  ∀ (s : State) (n : Nat), s.phase = .idle → s.configured = true →
    exec (.configure n) s = .next { s with fault := .reconfigure, phase := .faulted } ∧
    ((if n = 0 then 1 else n) ≤ s.params.chainLenMax →
      ∃ t u, exec .teardown s = .next t ∧ exec (.configure n) t = .next u ∧
        u.configured = true ∧ u.N = (if n = 0 then 1 else n))

/-- TEARDOWN of a configured engine: unconfigured, chain length 0, the framebuffer unspecified, RESULT = OK, nothing else;
a second TEARDOWN faults. `fbEpoch` only names the new unspecified content (log 5). -/
def Obligations.TeardownReleases : Prop :=
  ∀ s : State, s.Inv → s.phase = .idle → s.configured = true →
    exec .teardown s =
      .next { s with configured := false, N := 0, fb := [], fbEpoch := s.fbEpoch + 1, result := .ok } ∧
    ∀ t, exec .teardown s = .next t →
      exec .teardown t = .next { t with fault := .unconfiguredUse, phase := .faulted } ∧
      ∀ i, fbLookup t.fb i = none

/-- Every command but CONFIGURE raises UNCONFIGURED_USE on an unconfigured engine, before its operands are looked at: FAULT
and the phase are written and nothing else. -/
def Obligations.UnconfiguredUseFaults : Prop :=
  ∀ (s : State) (i : Instr), s.phase = .idle → s.configured = false → needsConfigured i = true →
    exec i s = .next { s with fault := .unconfiguredUse, phase := .faulted }

/-- R24: the chain length is immutable while configured; after a step, as before it, it is within 1 and the capacity while
configured and reads 0 while not. -/
def Obligations.ChainLengthImmutableWhileConfigured : Prop :=
  ∀ s t : State, s.Inv → step s = .next t →
    (s.configured = true → 1 ≤ s.N ∧ s.N ≤ s.params.chainLenMax) ∧ (s.configured = false → s.N = 0) ∧
    (t.configured = true → 1 ≤ t.N ∧ t.N ≤ t.params.chainLenMax) ∧ (t.configured = false → t.N = 0) ∧
    (s.configured = true → t.configured = true → t.N = s.N)

/-! ## Chip writes (42_chip_write.md) -/

/-- WRITE_REGISTER at a valid offset: one transaction of `N` frames, `F` verbatim in slot `chipOffset + 1` and `0x0000` in
every other, and nothing else. -/
def Obligations.WriteRegisterTransaction : Prop :=
  ∀ (s : State) (k : Nat) (f : Frame), s.phase = .idle → s.configured = true → k < s.N →
    exec (.writeRegister k f) s = .next { s with
      phase := .exec
      mprog := [.beginTxn] ++ (List.range s.N).map (fun j => .send (if j = k then f else 0x0000#16)) ++ [.endTxn]
      mpc := 0 }

/-- WRITE_ALL_REGISTERS: one transaction of `N` copies of `F`, verbatim, and nothing else. -/
def Obligations.WriteAllTransaction : Prop :=
  ∀ (s : State) (f : Frame), s.phase = .idle → s.configured = true →
    exec (.writeAllRegisters f) s = .next { s with
      phase := .exec, mprog := [.beginTxn] ++ List.replicate s.N (.send f) ++ [.endTxn], mpc := 0 }

/-- R148: with one chip the addressed and the broadcast write agree; with more they agree in slot 1 and differ in slots
2 to N unless `F` is `0x0000`, where they agree at every length. -/
def Obligations.AddressedAndBroadcastWritesCompared : Prop :=
  ∀ (s : State) (f : Frame), s.Inv → s.phase = .idle → s.configured = true →
    (s.N = 1 → exec (.writeRegister 0 f) s = exec (.writeAllRegisters f) s) ∧
    exec (.writeRegister 0 0x0000#16) s = exec (.writeAllRegisters 0x0000#16) s ∧
    (2 ≤ s.N → f ≠ 0x0000#16 →
      ∃ t u, exec (.writeRegister 0 f) s = .next t ∧ exec (.writeAllRegisters f) s = .next u ∧
        (sends t.mprog)[0]? = (sends u.mprog)[0]? ∧
        ∀ j, 1 ≤ j → j < s.N → (sends t.mprog)[j]? ≠ (sends u.mprog)[j]?)

/-! ## Framebuffer update (43_buffer_update.md) -/

/-- UPDATE_BUFFER_REPLICATE of a valid run: exactly the offsets `[c, c + L)` hold `V`, RESULT = OK, nothing else. -/
def Obligations.ReplicateWritesTheRun : Prop :=
  ∀ (s : State) (c l : Nat) (v : Byte), s.Inv → s.phase = .idle → s.configured = true →
    0 < l → c + l - 1 < 8 * s.N →
    ∃ cells, exec (.updateBufferReplicate c l v) s = .next { s with fb := cells, result := .ok } ∧
      fbWf cells = true ∧
      ∀ i, fbLookup cells i = if c ≤ i ∧ i < c + l then some v else fbLookup s.fb i

/-- R168: every offset below `8N` can be written by a one-byte update, every offset from `8N` on fails with OFFSET_ERROR and
leaves the buffer as it was. -/
def Obligations.WritableOffsetsAreThoseBelowEightN : Prop :=
  ∀ (s : State) (c : Nat) (v : Byte), s.Inv → s.phase = .idle → s.configured = true →
    (c < 8 * s.N → ∃ t, exec (.updateBufferReplicate c 1 v) s = .next t ∧ t.result = .ok ∧
      fbLookup t.fb c = some v ∧ ∀ i, i ≠ c → fbLookup t.fb i = fbLookup s.fb i) ∧
    (8 * s.N ≤ c → ∀ l, exec (.updateBufferReplicate c l v) s = .next { s with result := .offsetError })

/-- The header of UPDATE_BUFFER_SEQUENCE: with `L > 0` the engine collects `ceil(L/8)` payload words, whether or not the run
is valid; with `L = 0` it takes no payload and fails at once. -/
def Obligations.SequenceHeaderCollects : Prop :=
  ∀ (s : State) (c l : Nat), s.Inv → s.phase = .idle → s.configured = true →
    (0 < l → exec (.updateBufferSequence c l) s = .next { s with
      phase := .collect, pend := some { offset := c, length := l, received := [], remaining := (l + 7) / 8 } }) ∧
    (l = 0 → exec (.updateBufferSequence c l) s = .next { s with result := .offsetError })

/-- A payload word that is not the last one due: its eight lanes join the bytes received, those at or after byte `L`
ignored, whatever the word's bits are. -/
def Obligations.PayloadWordJoinsThePending : Prop :=
  ∀ (s u : State) (w : CmdWord) (rest : List HostAction) (p : Pending),
    s.rst = false → s.turnOf = (.host, u) → u.host = .word w :: rest → u.phase = .collect → u.pend = some p →
    2 ≤ p.remaining →
    step s = .next { u with host := rest, pend := some { p with
      received := (p.received ++ lanes w).take p.length, remaining := p.remaining - 1 } }

/-- The last payload word: the command executes and completes in that step. A valid run has its bytes written one to one
and nothing else of the buffer; an invalid one leaves the buffer unmodified with OFFSET_ERROR. -/
def Obligations.LastPayloadWordCompletes : Prop :=
  ∀ (s u : State) (w : CmdWord) (rest : List HostAction) (p : Pending),
    u.Inv → s.rst = false → s.turnOf = (.host, u) → u.host = .word w :: rest → u.phase = .collect →
    u.pend = some p → p.remaining = 1 →
    (0 < p.length → p.offset + p.length - 1 < 8 * u.N →
      ∃ cells, step s = .next { u with host := rest, fb := cells, phase := .idle, result := .ok, pend := none } ∧
        ∀ i, fbLookup cells i =
          if p.offset ≤ i ∧ i < p.offset + p.length then (p.received ++ lanes w)[i - p.offset]? else fbLookup u.fb i) ∧
    (¬ p.offset + p.length - 1 < 8 * u.N →
      step s = .next { u with host := rest, phase := .idle, result := .offsetError, pend := none })

/-- The whole of UPDATE_BUFFER_SEQUENCE over its header and payload words, presented on the command port one after the
other: the payload is consumed in full either way; a valid run leaves the supplied bytes in the buffer, one to one, an
invalid one leaves it unmodified with OFFSET_ERROR. -/
def Obligations.SequenceCommandCopiesItsBytes : Prop :=
  ∀ (s : State) (c : Nat) (bytes : List Byte) (hs : List HostAction) (rest : List Agent),
    s.Inv → s.rst = false → s.phase = .idle → s.configured = true →
    c < 2 ^ 24 → 0 < bytes.length → bytes.length < 2 ^ 24 →
    s.host = (AsmLine.copy c bytes.length bytes).words.map HostAction.word ++ hs →
    s.sched = List.replicate (1 + payloadWords bytes.length) Agent.host ++ rest →
    ∃ cells, Sys2Proof.core.run (1 + payloadWords bytes.length) s = .next { s with
        host := hs, sched := rest, fb := cells
        result := if c + bytes.length - 1 < 8 * s.N then .ok else .offsetError } ∧
      ∀ i, fbLookup cells i =
        if c + bytes.length - 1 < 8 * s.N ∧ c ≤ i ∧ i < c + bytes.length then bytes[i - c]? else fbLookup s.fb i

/-- R165: UPDATE_BUFFER emits no bus event, does not change `cs` and touches neither transport nor chain; header and payload
words alike. -/
def Obligations.UpdatesTouchNoBus : Prop :=
  ∀ (s t : State) (c l : Nat) (v : Byte) (w : CmdWord),
    exec (.updateBufferReplicate c l v) s = .next t ∨ exec (.updateBufferSequence c l) s = .next t ∨
      s.acceptPayload w = .next t →
    t.trace = s.trace ∧ t.cs = s.cs ∧ t.queue = s.queue ∧ t.chips = s.chips ∧
      (s.mprog = [] → t.mprog = [])

/-- R142, R201: an out-of-range chip or run completes its command with RESULT = 1 and changes nothing else. -/
def Obligations.OffsetErrorsHaveNoOtherEffect : Prop :=
  ∀ s : State, s.Inv → s.phase = .idle → s.configured = true →
    (∀ k f, s.N ≤ k → exec (.writeRegister k f) s = .next { s with result := .offsetError }) ∧
    (∀ c l v, ¬ (0 < l ∧ c + l - 1 < 8 * s.N) →
      exec (.updateBufferReplicate c l v) s = .next { s with result := .offsetError }) ∧
    (∀ c, exec (.updateBufferSequence c 0) s = .next { s with result := .offsetError }) ∧
    (∀ (c l : Nat) (received : List Byte) (w : CmdWord), ¬ (0 < l ∧ c + l - 1 < 8 * s.N) →
      ({ s with
          phase := .collect
          pend := some { offset := c, length := l, received := received, remaining := 1 } } : State).acceptPayload w =
        .next { s with result := .offsetError })

/-! ## Refresh (44_refresh.md) -/

/-- REFRESH: eight transactions, row `r` sending digit register `r + 1` and byte `8k + r` for each logical chip `k` in
order, and nothing else; the framebuffer is only read. -/
def Obligations.RefreshProgramIsTheEightRows : Prop :=
  ∀ s : State, s.phase = .idle → s.configured = true →
    exec .refresh s = .next { s with
      phase := .exec
      mprog := (List.range 8).flatMap fun r =>
        [.beginTxn] ++ (List.range s.N).map (fun k => .send (frame (BitVec.ofNat 4 (r + 1)) (s.fbByte (8 * k + r)))) ++
          [.endTxn]
      mpc := 0 }

/-- R182, R183: 8 transactions of `N` frames, `8N` frames and `8(N + 2)` micro-operations in all, and the `j`-th frame of
the refresh. -/
def Obligations.RefreshCountsAndFrameOrder : Prop :=
  ∀ s : State, s.phase = .idle → s.configured = true →
    ∃ t, exec .refresh s = .next t ∧
      t.mprog.length = 8 * (s.N + 2) ∧
      t.mprog.count .beginTxn = 8 ∧ t.mprog.count .endTxn = 8 ∧
      gateRun s.N .closed t.mprog = some .closed ∧
      (sends t.mprog).length = 8 * s.N ∧
      ∀ j, j < 8 * s.N →
        (sends t.mprog)[j]? = some (frame (digitReg (j / s.N)) (s.fbByte ((j % s.N) * 8 + j / s.N)))

/-! ## Transport gate, transport and chain (40_transport_gate.md) -/

/-- R103: BEGIN holds while the transport is busy, changing nothing; else it makes the select line active, emits `SelLow`
and advances. In states of the invariant `cs` was 1, so the edge is real. -/
def Obligations.BeginDrivesSelectLow : Prop :=
  ∀ s u : State, s.rst = false → s.turnOf = (.engine, u) → u.phase = .exec → u.mprog[u.mpc]? = some .beginTxn →
    u.mpc + 1 < u.mprog.length →
    (u.txBusy = true → step s = .next u) ∧
    (u.txBusy = false →
      step s = .next { u with cs := false, trace := u.trace ++ [.selLow], mpc := u.mpc + 1 }) ∧
    (u.Inv → u.cs = true)

/-- R104: SEND holds while the transport's queue is full, changing nothing; else it enqueues the frame verbatim, emits `Enq`
and advances; it does not wait for idle. In states of the invariant it runs only inside a transaction. -/
def Obligations.SendEnqueuesTheFrame : Prop :=
  ∀ (s u : State) (f : Frame), s.rst = false → s.turnOf = (.engine, u) → u.phase = .exec →
    u.mprog[u.mpc]? = some (.send f) → u.mpc + 1 < u.mprog.length →
    (u.txFull = true → step s = .next u) ∧
    (u.txFull = false →
      step s = .next { u with queue := u.queue ++ [f], trace := u.trace ++ [.enq f], mpc := u.mpc + 1 }) ∧
    (u.Inv → u.cs = false)

/-- R105 with the latch edge of R107: END holds while the transport is busy, changing nothing; else the select line goes
inactive with `SelHigh`, every chip takes the register and data of the frame in its shift register (register address 0
changes nothing; 0xD and 0xE are in no row, log 8), and the last micro-operation completes the command with RESULT = OK.
That it completes in END's own step, leaving `mprog` empty and `mpc` 0, is the model's choice (log 12, DESIGN CHOICE).
`latchPos` (log 7) and `free` (log 4) are the model's own. -/
def Obligations.EndLatchesTheChain : Prop :=
  ∀ s u : State, s.rst = false → s.turnOf = (.engine, u) → u.phase = .exec → u.mprog[u.mpc]? = some .endTxn →
    (u.txBusy = true → step s = .next u) ∧
    (u.txBusy = false → u.N = u.chips.length →
      ∃ (cs : List Chip) (k : Nat),
        step s = .next (
          if u.mpc + 1 = u.mprog.length then
            { u with cs := true, trace := u.trace ++ [.selHigh], chips := cs, latchPos := 1, free := k
                     phase := .idle, result := .ok, mprog := [], mpc := 0, pend := none }
          else
            { u with cs := true, trace := u.trace ++ [.selHigh], chips := cs, latchPos := 1, free := k
                     mpc := u.mpc + 1 }) ∧
        cs.length = u.chips.length ∧
        ∀ (p : Nat) (c : Chip), u.chips[p]? = some c →
          ∃ c', cs[p]? = some c' ∧ c'.shift = c.shift ∧
            (frameAddr c.shift ≠ 0xD#4 → frameAddr c.shift ≠ 0xE#4 →
              ∀ a, chipReg c' a =
                if a ≠ 0 ∧ a = frameAddr c.shift then some (frameData c.shift) else chipReg c a))

/-- Where the configured length is not the physical length, END has the same effect on engine and bus, the completion of
the command at the last micro-operation included (in END's own step, log 12, DESIGN CHOICE), and only the registers of the
chips are open (R240, log 9). `free` is the model's own (log 4). -/
def Obligations.EndUnderLengthMismatch : Prop :=
  ∀ s u : State, s.rst = false → s.turnOf = (.engine, u) → u.phase = .exec → u.mprog[u.mpc]? = some .endTxn →
    u.txBusy = false → u.N ≠ u.chips.length →
    ∃ (cs : List Chip) (k : Nat),
      step s = .next (
        if u.mpc + 1 = u.mprog.length then
          { u with cs := true, trace := u.trace ++ [.selHigh], chips := cs, free := k
                   phase := .idle, result := .ok, mprog := [], mpc := 0, pend := none }
        else
          { u with cs := true, trace := u.trace ++ [.selHigh], chips := cs, free := k, mpc := u.mpc + 1 }) ∧
      cs.map Chip.shift = u.chips.map Chip.shift

/-- R106: DESELECT makes the select line inactive without an event; in states of the invariant it was inactive, so nothing
but the position changes. -/
def Obligations.DeselectMakesNoEvent : Prop :=
  ∀ s u : State, s.rst = false → s.turnOf = (.engine, u) → u.phase = .exec → u.mprog[u.mpc]? = some .deselect →
    u.mpc + 1 < u.mprog.length →
    step s = .next { u with cs := true, mpc := u.mpc + 1 } ∧
    (u.Inv → step s = .next { u with mpc := u.mpc + 1 })

/-- The transport's status and its `shift` (R102) with the chain's shift (R107), for a transport that works: the head of the
queue enters the nearest chip, every frame moves one place away from the controller, no register changes. -/
def Obligations.TransportShiftsInOrder : Prop :=
  ∀ s u : State, s.rst = false → s.turnOf = (.transport, u) → u.stalled = false →
    (u.txBusy = true ↔ u.queue ≠ []) ∧ (u.txFull = true ↔ u.queue.length = u.params.queueDepth) ∧
    (u.queue = [] → step s = .next u) ∧
    (∀ f q, u.queue = f :: q →
      ∃ cs, step s = .next { u with queue := q, chips := cs } ∧ cs.length = u.chips.length ∧
        (cs.map Chip.regs = u.chips.map Chip.regs) ∧
        cs.map Chip.shift = (f :: u.chips.map Chip.shift).take u.chips.length)

/-- The consequence R107 draws: after `N` frames shifted into a chain of `N` chips, the chip at physical position `p` holds
the `(N − p + 1)`-th frame sent, and no register has changed. -/
def Obligations.ShiftedFramesReachTheirChips : Prop :=
  ∀ (fs : List Frame) (cs : List Chip), fs.length = cs.length →
    (∀ p, 1 ≤ p → p ≤ cs.length →
      ((fs.foldl (fun c f => shiftIn f c) cs)[p - 1]?).map Chip.shift = fs[cs.length - p]?) ∧
    (fs.foldl (fun c f => shiftIn f c) cs).map Chip.regs = cs.map Chip.regs

/-- A frame of the register map, taken by the chip the latch edge is at: that chip's register of the frame's address holds
the data byte, whatever the don't-care nibble is, and everything else of the machine is unchanged. That exec of a frame acts
on the chip at `latchPos`, a field of the model's own, is the model's choice (log 7, DESIGN CHOICE). -/
def Obligations.FrameWritesItsRegister : Prop :=
  ∀ (z : BitVec 4) (d : Byte) (i : Instr) (a : BitVec 4),
    (i, a) ∈ [(Instr.frameDigit0 z d, 0x1#4), (Instr.frameDigit1 z d, 0x2#4), (Instr.frameDigit2 z d, 0x3#4),
      (Instr.frameDigit3 z d, 0x4#4), (Instr.frameDigit4 z d, 0x5#4), (Instr.frameDigit5 z d, 0x6#4),
      (Instr.frameDigit6 z d, 0x7#4), (Instr.frameDigit7 z d, 0x8#4), (Instr.frameDecodeMode z d, 0x9#4),
      (Instr.frameIntensity z d, 0xA#4), (Instr.frameScanLimit z d, 0xB#4), (Instr.frameShutdown z d, 0xC#4),
      (Instr.frameDisplayTest z d, 0xF#4)] →
    ∀ (s : State) (c : Chip), s.chipAt s.latchPos = some c →
      ∃ cs, exec i s = .next { s with chips := cs } ∧
        cs.map Chip.shift = s.chips.map Chip.shift ∧
        ({ s with chips := cs } : State).chipReg s.latchPos a = some d ∧
        ∀ q b, q ≠ s.latchPos ∨ b ≠ a → ({ s with chips := cs } : State).chipReg q b = s.chipReg q b

/-- A frame with register address 0 changes nothing, whatever its other bits are (R82); the engine's no-op frame is
`0x0000`. -/
def Obligations.NoopFrameChangesNothing : Prop :=
  (∀ (z : BitVec 4) (d : Byte) (s : State), exec (.frameNoop z d) s = .next s) ∧
  (∀ f : Frame, frameAddr f = 0 → ∃ z d, decodeFrame f = .ok (.frameNoop z d)) ∧
  noopFrame = frame 0x0#4 0x00#8 ∧ noopFrame = 0x0000#16

/-- A chip that latches a frame with register address 0xD or 0xE: only that chip's registers are open (R96, log 8); every
other chip and the whole engine are unchanged. -/
def Obligations.UnmappedFrameOpensOneChip : Prop :=
  ∀ (s : State) (p : Nat) (c : Chip), s.chipAt p = some c → frameAddr c.shift = 0xD#4 ∨ frameAddr c.shift = 0xE#4 →
    ∃ cs k, s.latchChip p = .next { s with chips := cs, free := k } ∧
      cs.map Chip.shift = s.chips.map Chip.shift ∧
      ∀ q a, q ≠ p → ({ s with chips := cs } : State).chipReg q a = s.chipReg q a

/-- R110 (with R109): the micro-program a command loads is made of transactions of exactly `N` frames each, with DESELECT
only outside them. -/
def Obligations.TransactionsHaveExactlyNFrames : Prop :=
  ∀ (s t : State) (i : Instr), s.phase = .idle → exec i s = .next t → t.phase = .exec →
    gateRun t.N .closed t.mprog = some .closed

/-- The frames the engine generates itself (R98); every other frame it sends is the host's. The literals 0x0900, 0x0B07 and
0x0F00 are the model's, with data bytes from general knowledge by decision D12 (log 17, PRESUMED). -/
def Obligations.GeneratedFramesAreThoseOfR98 : Prop :=
  ∀ (s t : State) (i : Instr) (f : Frame), s.phase = .idle → exec i s = .next t → t.phase = .exec → f ∈ sends t.mprog →
    f = 0x0000#16 ∨ f = 0x0900#16 ∨ f = 0x0B07#16 ∨ f = 0x0F00#16 ∨
    (∃ r b, r < 8 ∧ f = frame (BitVec.ofNat 4 (r + 1)) b) ∨
    (∃ k, i = .writeRegister k f) ∨ i = .writeAllRegisters f

/-- R26: only BEGIN (to 0), END (to 1), DESELECT (to 1) and reset (to 1) change the select line. -/
def Obligations.SelectLineWriters : Prop :=
  ∀ s t : State, step s = .next t → t.cs ≠ s.cs →
    (s.rst = true ∧ t.cs = true) ∨
    (s.rst = false ∧ ∃ u, s.turnOf = (.engine, u) ∧ u.phase = .exec ∧
      ((u.mprog[u.mpc]? = some .beginTxn ∧ t.cs = false) ∨ (u.mprog[u.mpc]? = some .endTxn ∧ t.cs = true) ∨
        (u.mprog[u.mpc]? = some .deselect ∧ t.cs = true)))

/-- A transport that malfunctions or is disconnected (R111) blocks BEGIN, SEND and END for ever: however many steps are
run, whoever's turns they are, the engine stays at the same micro-operation, with no fault and no event. That such a
transport is the flag `stalled`, which reports busy and full and never changes, is the model's choice (log 6, DESIGN
CHOICE), and "for ever" rests on it. -/
def Obligations.StalledTransportHangsTheEngine : Prop :=
  ∀ (k : Nat) (s : State) (op : MicroOp),
    s.rst = false → noResetLeft s.host = true → s.phase = .exec → s.stalled = true →
    s.mprog[s.mpc]? = some op → op ≠ .deselect →
    ∃ t, Sys2Proof.core.run k s = .next t ∧ t.phase = .exec ∧ t.mprog = s.mprog ∧ t.mpc = s.mpc ∧
      t.fault = s.fault ∧ t.cs = s.cs ∧ t.trace = s.trace ∧ t.result = s.result

/-! ## Faults and reset (60_exceptions.md, 70_reset_and_hazards.md) -/

/-- In FAULTED every step but a reset leaves the engine, the framebuffer, the select line and the trace as they are: nothing
is accepted, no micro-operation runs, the fault stays; the reset clears it. -/
def Obligations.FaultedUntilReset : Prop :=
  ∀ s : State, s.phase = .faulted →
    (s.rst = false → ∃ t, step s = .next t ∧ t.phase = .faulted ∧ t.fault = s.fault ∧ t.configured = s.configured ∧
      t.N = s.N ∧ t.fb = s.fb ∧ t.cs = s.cs ∧ t.mprog = s.mprog ∧ t.mpc = s.mpc ∧ t.pend = s.pend ∧
      t.result = s.result ∧ t.trace = s.trace) ∧
    (s.rst = true → ∃ t, step s = .next t ∧ t.phase = .idle ∧ t.fault = .none)

/-- An asserted reset is the step, whoever's turn it is (R208, R230): every piece of engine state takes its reset value and
`SelHigh` is emitted exactly if `cs` was 0. The rest is the model's choice (DESIGN CHOICE): the step lowers `rst`, uses up no
turn and takes no word from the host (log 11); the trace goes on (log 15); the transport's queue and the chain's shift
registers stay, and so do the chip registers where `cs` was 1, all of which R41 leaves any value (log 23). After a reset
that found `cs` at 0 the chip registers are open (R231, log 10, DEDUCED). -/
def Obligations.ResetWinsAndResets : Prop :=
  ∀ s : State, s.rst = true →
    ∃ t, step s = .next t ∧ t.configured = false ∧ t.N = 0 ∧ t.cs = true ∧ t.phase = .idle ∧ t.mprog = [] ∧
      t.mpc = 0 ∧ t.pend = none ∧ t.result = .ok ∧ t.fault = .none ∧ t.rst = false ∧
      (∀ i, fbLookup t.fb i = none) ∧
      t.trace = (if s.cs = true then s.trace else s.trace ++ [.selHigh]) ∧
      t.queue = s.queue ∧ t.host = s.host ∧ t.sched = s.sched ∧ t.params = s.params ∧
      t.chips.map Chip.shift = s.chips.map Chip.shift ∧ (s.cs = true → t.chips = s.chips)

/-- The host asserts the reset on its turn, in any phase; the reset is then the next step. R230 says that it takes effect at
once; that the host's turn raises the field `rst` and the step after it is the reset is the model's choice (log 11, DESIGN
CHOICE). -/
def Obligations.HostAssertsReset : Prop :=
  ∀ (s u : State) (rest : List HostAction),
    s.rst = false → s.turnOf = (.host, u) → u.host = .assertReset :: rest →
    step s = .next { u with host := rest, rst := true } ∧
    Sys2Proof.core.run 2 s = .next (({ u with host := rest, rst := true } : State).applyReset)

/-! ## Invariants and whole-machine rules -/

/-- The invariant holds at reset. -/
def Obligations.InvariantAtReset : Prop := State.reset.Inv

/-- Every step keeps the invariant: the configuration is coherent (R24), exactly `[0, 8N)` of the canonical framebuffer has
known content (R61), the phase agrees with `pend`, `fault`, the micro-program and the select line (R36, R38, R108), every
transaction under way has `N` frames (R110), the bus trace alternates as R64 and R100 say, the queue is within its depth
(R102). -/
def Obligations.StepKeepsTheInvariant : Prop :=
  ∀ s t : State, s.Inv → step s = .next t → t.Inv

/-- In states of the invariant every step answers a next state: the machine's one stop is never reached. -/
def Obligations.StepAlwaysAnswersUnderTheInvariant : Prop :=
  ∀ s : State, s.Inv → ∃ t, step s = .next t

/-- The framebuffer's list keeps its canonical form in every step, in every state. -/
def Obligations.FramebufferStaysCanonical : Prop :=
  ∀ s t : State, fbWf s.fb = true → step s = .next t → fbWf t.fb = true

/-- Who changes the framebuffer: a reset, an accepted CONFIGURE, TEARDOWN or UPDATE_BUFFER_REPLICATE header, or a payload
word. No engine turn, no transport turn and no other command does. -/
def Obligations.FramebufferWriters : Prop :=
  ∀ s t : State, step s = .next t → t.fb ≠ s.fb →
    s.rst = true ∨
    ∃ u w rest, s.turnOf = (.host, u) ∧ u.host = .word w :: rest ∧
      (u.phase = .collect ∨
        (u.phase = .idle ∧ ((∃ n, decode w = .ok (.configure n)) ∨ decode w = .ok .teardown ∨
          ∃ c l v, decode w = .ok (.updateBufferReplicate c l v))))

/-- No step changes the block's parameters, the number of chips in the chain or the transport's `stalled` flag. All three
are the model's choice (DESIGN CHOICE): the parameters are fields no step changes (log 2), the chain is a list of chips (log
3), and the flag never changes, so a stalled transport never recovers (log 6). -/
def Obligations.ParametersAndChainLengthAreFixed : Prop :=
  ∀ s t : State, step s = .next t → t.params = s.params ∧ t.chips.length = s.chips.length ∧ t.stalled = s.stalled

/-- The phase changes only along the transitions R36 lists (a reset apart). -/
def Obligations.PhaseTransitions : Prop :=
  ∀ s t : State, s.rst = false → step s = .next t → t.phase ≠ s.phase →
    (s.phase = .idle ∧ (t.phase = .collect ∨ t.phase = .exec ∨ t.phase = .faulted)) ∨
    (s.phase = .collect ∧ t.phase = .idle) ∨ (s.phase = .exec ∧ t.phase = .idle)

/-- Under a transport that works, a command in EXEC completes with RESULT = OK, within a bound that counts its
micro-operations and frames. The run is the one the model's default turns give (log 1, DESIGN CHOICE). -/
def Obligations.CommandsComplete : Prop :=
  ∀ s : State, s.Inv → s.rst = false → s.stalled = false → s.sched = [] → s.phase = .exec →
    ∃ k t, k ≤ 2 * (s.mprog.length - s.mpc) + s.queue.length ∧ Sys2Proof.core.run k s = .next t ∧
      t.phase = .idle ∧ t.result = .ok ∧ t.fault = .none ∧ t.cs = true ∧ t.host = s.host ∧ t.fb = s.fb ∧ t.N = s.N

/-- After REFRESH, from its header on the command port to its completion, logical chip `k`, at physical position `N − k`,
holds framebuffer byte `8k + r` in digit register `r + 1` (R184), and no other register has changed. The run is the one the
model's default turns give (log 1, DESIGN CHOICE), where R184 holds of every interleaving. -/
def Obligations.RefreshReachesTheChips : Prop :=
  ∀ (s : State) (hs : List HostAction), s.Inv → s.rst = false → s.stalled = false → s.sched = [] → s.queue = [] →
    s.phase = .idle → s.configured = true → s.lengthMatches → s.host = .word 0x6000000000000000#64 :: hs →
    ∃ n t, Sys2Proof.core.run n s = .next t ∧ t.phase = .idle ∧ t.result = .ok ∧ t.host = hs ∧ t.fb = s.fb ∧
      (∀ p r, 1 ≤ p → p ≤ s.N → r < 8 →
        t.chipReg p (BitVec.ofNat 4 (r + 1)) = some (s.fbByte ((s.N - p) * 8 + r))) ∧
      ∀ p a, a.toNat = 0 ∨ 8 < a.toNat → t.chipReg p a = s.chipReg p a

/-- After WRITE_REGISTER at a valid offset, from its header to its completion, the frame's register of logical chip
`chipOffset`, at physical position `N − chipOffset`, holds its data byte (R143), and no other register of any chip has
changed; with register address 0 none has (R144). The frame's register address is not 0xD or 0xE, whose effect R96 leaves
open (log 8). The run is the one the model's default turns give (log 1, DESIGN CHOICE). -/
def Obligations.WriteRegisterReachesItsChip : Prop :=
  ∀ (s : State) (k : Nat) (f : Frame) (w : CmdWord) (hs : List HostAction),
    s.Inv → s.rst = false → s.stalled = false → s.sched = [] → s.queue = [] →
    s.phase = .idle → s.configured = true → s.lengthMatches → k < s.N →
    frameAddr f ≠ 0xD#4 → frameAddr f ≠ 0xE#4 →
    decode w = .ok (.writeRegister k f) → s.host = .word w :: hs →
    ∃ n t, Sys2Proof.core.run n s = .next t ∧ t.phase = .idle ∧ t.result = .ok ∧ t.host = hs ∧
      ∀ p a, t.chipReg p a =
        if p = s.N - k ∧ a ≠ 0 ∧ a = frameAddr f then some (frameData f) else s.chipReg p a

/-- After WRITE_ALL_REGISTERS, from its header to its completion, the frame's register of every chip holds its data byte
(R147), and no other register has changed; with register address 0 nothing has. The register address is not 0xD or 0xE,
whose effect R96 leaves open (log 8). The run is the one the model's default turns give (log 1, DESIGN CHOICE). -/
def Obligations.WriteAllReachesEveryChip : Prop :=
  ∀ (s : State) (f : Frame) (w : CmdWord) (hs : List HostAction),
    s.Inv → s.rst = false → s.stalled = false → s.sched = [] → s.queue = [] →
    s.phase = .idle → s.configured = true → s.lengthMatches →
    frameAddr f ≠ 0xD#4 → frameAddr f ≠ 0xE#4 →
    decode w = .ok (.writeAllRegisters f) → s.host = .word w :: hs →
    ∃ n t, Sys2Proof.core.run n s = .next t ∧ t.phase = .idle ∧ t.result = .ok ∧ t.host = hs ∧
      ∀ p a, 1 ≤ p → p ≤ s.N →
        t.chipReg p a = if a ≠ 0 ∧ a = frameAddr f then some (frameData f) else s.chipReg p a
end

