-- ==== Sys2Proof/Laws/Bits.lean ====
section
/-!
SUPPORT. Bit-field laws: the fields of a header and of a frame are the parts they were put together from.
-/

namespace Sys2Proof

/-- An appended bit vector as a number. -/
theorem toNat_append_mul {m n : Nat} (x : BitVec m) (y : BitVec n) :
    (x ++ y).toNat = x.toNat * 2 ^ n + y.toNat := by
  rw [BitVec.toNat_append, Nat.shiftLeft_eq, Nat.mul_comm, ← Nat.two_pow_add_eq_or_of_lt y.isLt]

/-- An extracted field as a number. -/
theorem toNat_extract {w : Nat} (x : BitVec w) (lo len : Nat) :
    (x.extractLsb' lo len).toNat = x.toNat / 2 ^ lo % 2 ^ len := by
  simp [BitVec.extractLsb'_toNat, Nat.shiftRight_eq_div_pow]

/-- A header as a number (R71). -/
theorem header_toNat (op : BitVec 4) (m : BitVec 1) (a : BitVec 24) (low : BitVec 32) :
    (header op m a low).toNat =
      ((op.toNat * 2 + m.toNat) * 8 * 2 ^ 24 + a.toNat) * 2 ^ 32 + low.toNat := by
  simp only [header, toNat_append_mul, BitVec.toNat_ofNat]
  omega

section HeaderFields

variable (op : BitVec 4) (m : BitVec 1) (a : BitVec 24) (low : BitVec 32)

@[simp] theorem opField_header : opField (header op m a low) = op := by
  apply BitVec.eq_of_toNat_eq
  have := op.isLt; have := m.isLt; have := a.isLt; have := low.isLt
  simp only [opField, toNat_extract, header_toNat]; omega

@[simp] theorem modeField_header : modeField (header op m a low) = m := by
  apply BitVec.eq_of_toNat_eq
  have := op.isLt; have := m.isLt; have := a.isLt; have := low.isLt
  simp only [modeField, toNat_extract, header_toNat]; omega

@[simp] theorem rsvField_header : rsvField (header op m a low) = 0 := by
  apply BitVec.eq_of_toNat_eq
  have := op.isLt; have := m.isLt; have := a.isLt; have := low.isLt
  simp only [rsvField, toNat_extract, header_toNat, show (0 : BitVec 3).toNat = 0 from rfl]; omega

@[simp] theorem aField_header : aField (header op m a low) = a := by
  apply BitVec.eq_of_toNat_eq
  have := op.isLt; have := m.isLt; have := a.isLt; have := low.isLt
  simp only [aField, toNat_extract, header_toNat]; omega

@[simp] theorem lowField_header : lowField (header op m a low) = low := by
  apply BitVec.eq_of_toNat_eq
  have := op.isLt; have := m.isLt; have := a.isLt; have := low.isLt
  simp only [lowField, toNat_extract, header_toNat]; omega

end HeaderFields

/-- The fields of the low word are fields of the low word's value (R72). -/
theorem lField_eq (w : CmdWord) : lField w = (lowField w).extractLsb' 8 24 := by
  apply BitVec.eq_of_toNat_eq
  simp only [lField, lowField, toNat_extract]; omega

theorem vField_eq (w : CmdWord) : vField w = (lowField w).extractLsb' 0 8 := by
  apply BitVec.eq_of_toNat_eq
  simp only [vField, lowField, toNat_extract]; omega

theorem highHalf_eq (w : CmdWord) : highHalf w = (lowField w).extractLsb' 16 16 := by
  apply BitVec.eq_of_toNat_eq
  simp only [highHalf, lowField, toNat_extract]; omega

theorem fField_eq (w : CmdWord) : fField w = (lowField w).extractLsb' 0 16 := by
  apply BitVec.eq_of_toNat_eq
  simp only [fField, lowField, toNat_extract]; omega

/-- The parts of two appended bit vectors. -/
theorem extract_append_high {m n : Nat} (x : BitVec m) (y : BitVec n) : (x ++ y).extractLsb' n m = x := by
  apply BitVec.eq_of_toNat_eq
  rw [toNat_extract, toNat_append_mul, Nat.mul_comm, Nat.mul_add_div (Nat.two_pow_pos n),
    Nat.div_eq_of_lt y.isLt, Nat.add_zero, Nat.mod_eq_of_lt x.isLt]

theorem extract_append_low {m n : Nat} (x : BitVec m) (y : BitVec n) : (x ++ y).extractLsb' 0 n = y := by
  apply BitVec.eq_of_toNat_eq
  rw [toNat_extract, toNat_append_mul, Nat.pow_zero, Nat.div_one, Nat.mul_comm, Nat.mul_add_mod,
    Nat.mod_eq_of_lt y.isLt]

/-- A natural number that fits its field is read back (R73). -/
theorem field24_toNat {n : Nat} (h : n < fieldBound) : (field24 n).toNat = n := by
  simp only [field24, BitVec.toNat_ofNat]
  exact Nat.mod_eq_of_lt h

/-- A frame put together from its fields, as a number (R80). -/
theorem rawFrame_toNat (z a : BitVec 4) (d : Byte) :
    (rawFrame z a d).toNat = (z.toNat * 16 + a.toNat) * 256 + d.toNat := by
  simp only [rawFrame, toNat_append_mul]; omega

section FrameFields

variable (z a : BitVec 4) (d : Byte)

@[simp] theorem frameDontcare_rawFrame : frameDontcare (rawFrame z a d) = z := by
  apply BitVec.eq_of_toNat_eq
  have := z.isLt; have := a.isLt; have := d.isLt
  simp only [frameDontcare, toNat_extract, rawFrame_toNat]; omega

@[simp] theorem frameAddr_rawFrame : frameAddr (rawFrame z a d) = a := by
  apply BitVec.eq_of_toNat_eq
  have := z.isLt; have := a.isLt; have := d.isLt
  simp only [frameAddr, toNat_extract, rawFrame_toNat]; omega

@[simp] theorem frameData_rawFrame : frameData (rawFrame z a d) = d := by
  apply BitVec.eq_of_toNat_eq
  have := z.isLt; have := a.isLt; have := d.isLt
  simp only [frameData, toNat_extract, rawFrame_toNat]; omega

/-- The frame the engine builds has the don't-care nibble 0 (R80). -/
theorem frame_eq_rawFrame : frame a d = rawFrame 0#4 a d := rfl

@[simp] theorem frameAddr_frame : frameAddr (frame a d) = a := frameAddr_rawFrame 0#4 a d

@[simp] theorem frameData_frame : frameData (frame a d) = d := frameData_rawFrame 0#4 a d

end FrameFields

/-- A payload word has eight lanes (R74). -/
@[simp] theorem lanes_length (w : CmdWord) : (lanes w).length = 8 := rfl

/-- `ceil(L/8)` bounds the payload's length from above and from below (R74). -/
theorem payloadWords_bounds (l : Nat) : l ≤ 8 * payloadWords l ∧ 8 * payloadWords l ≤ l + 7 := by
  simp only [payloadWords, ceilDiv]; omega

theorem payloadWords_eq_zero (l : Nat) : payloadWords l = 0 ↔ l = 0 := by
  simp only [payloadWords, ceilDiv]; omega

end Sys2Proof
end

