-- ==== Sys2Proof/Laws/State.lean ====
section
/-!
SUPPORT. What each named update leaves in each field of the state, so that no proof unfolds a record update.
-/

namespace Sys2Proof.Machine

/-! ## emit -/

@[simp] theorem State.emit_configured (s : State) (e : Event) : (s.emit e).configured = s.configured := rfl
@[simp] theorem State.emit_N (s : State) (e : Event) : (s.emit e).N = s.N := rfl
@[simp] theorem State.emit_fb (s : State) (e : Event) : (s.emit e).fb = s.fb := rfl
@[simp] theorem State.emit_cs (s : State) (e : Event) : (s.emit e).cs = s.cs := rfl
@[simp] theorem State.emit_phase (s : State) (e : Event) : (s.emit e).phase = s.phase := rfl
@[simp] theorem State.emit_mprog (s : State) (e : Event) : (s.emit e).mprog = s.mprog := rfl
@[simp] theorem State.emit_mpc (s : State) (e : Event) : (s.emit e).mpc = s.mpc := rfl
@[simp] theorem State.emit_pend (s : State) (e : Event) : (s.emit e).pend = s.pend := rfl
@[simp] theorem State.emit_result (s : State) (e : Event) : (s.emit e).result = s.result := rfl
@[simp] theorem State.emit_fault (s : State) (e : Event) : (s.emit e).fault = s.fault := rfl
@[simp] theorem State.emit_rst (s : State) (e : Event) : (s.emit e).rst = s.rst := rfl
@[simp] theorem State.emit_params (s : State) (e : Event) : (s.emit e).params = s.params := rfl
@[simp] theorem State.emit_queue (s : State) (e : Event) : (s.emit e).queue = s.queue := rfl
@[simp] theorem State.emit_stalled (s : State) (e : Event) : (s.emit e).stalled = s.stalled := rfl
@[simp] theorem State.emit_chips (s : State) (e : Event) : (s.emit e).chips = s.chips := rfl
@[simp] theorem State.emit_trace (s : State) (e : Event) : (s.emit e).trace = s.trace ++ [e] := rfl
@[simp] theorem State.emit_statusReads (s : State) (e : Event) : (s.emit e).statusReads = s.statusReads := rfl
@[simp] theorem State.emit_host (s : State) (e : Event) : (s.emit e).host = s.host := rfl
@[simp] theorem State.emit_sched (s : State) (e : Event) : (s.emit e).sched = s.sched := rfl
@[simp] theorem State.emit_latchPos (s : State) (e : Event) : (s.emit e).latchPos = s.latchPos := rfl
@[simp] theorem State.emit_fbEpoch (s : State) (e : Event) : (s.emit e).fbEpoch = s.fbEpoch := rfl
@[simp] theorem State.emit_free (s : State) (e : Event) : (s.emit e).free = s.free := rfl

/-! ## enqueue -/

@[simp] theorem State.enqueue_configured (s : State) (f : Frame) : (s.enqueue f).configured = s.configured := rfl
@[simp] theorem State.enqueue_N (s : State) (f : Frame) : (s.enqueue f).N = s.N := rfl
@[simp] theorem State.enqueue_fb (s : State) (f : Frame) : (s.enqueue f).fb = s.fb := rfl
@[simp] theorem State.enqueue_cs (s : State) (f : Frame) : (s.enqueue f).cs = s.cs := rfl
@[simp] theorem State.enqueue_phase (s : State) (f : Frame) : (s.enqueue f).phase = s.phase := rfl
@[simp] theorem State.enqueue_mprog (s : State) (f : Frame) : (s.enqueue f).mprog = s.mprog := rfl
@[simp] theorem State.enqueue_mpc (s : State) (f : Frame) : (s.enqueue f).mpc = s.mpc := rfl
@[simp] theorem State.enqueue_pend (s : State) (f : Frame) : (s.enqueue f).pend = s.pend := rfl
@[simp] theorem State.enqueue_result (s : State) (f : Frame) : (s.enqueue f).result = s.result := rfl
@[simp] theorem State.enqueue_fault (s : State) (f : Frame) : (s.enqueue f).fault = s.fault := rfl
@[simp] theorem State.enqueue_rst (s : State) (f : Frame) : (s.enqueue f).rst = s.rst := rfl
@[simp] theorem State.enqueue_params (s : State) (f : Frame) : (s.enqueue f).params = s.params := rfl
@[simp] theorem State.enqueue_queue (s : State) (f : Frame) : (s.enqueue f).queue = s.queue ++ [f] := rfl
@[simp] theorem State.enqueue_stalled (s : State) (f : Frame) : (s.enqueue f).stalled = s.stalled := rfl
@[simp] theorem State.enqueue_chips (s : State) (f : Frame) : (s.enqueue f).chips = s.chips := rfl
@[simp] theorem State.enqueue_trace (s : State) (f : Frame) : (s.enqueue f).trace = s.trace := rfl
@[simp] theorem State.enqueue_statusReads (s : State) (f : Frame) : (s.enqueue f).statusReads = s.statusReads := rfl
@[simp] theorem State.enqueue_host (s : State) (f : Frame) : (s.enqueue f).host = s.host := rfl
@[simp] theorem State.enqueue_sched (s : State) (f : Frame) : (s.enqueue f).sched = s.sched := rfl
@[simp] theorem State.enqueue_latchPos (s : State) (f : Frame) : (s.enqueue f).latchPos = s.latchPos := rfl
@[simp] theorem State.enqueue_fbEpoch (s : State) (f : Frame) : (s.enqueue f).fbEpoch = s.fbEpoch := rfl
@[simp] theorem State.enqueue_free (s : State) (f : Frame) : (s.enqueue f).free = s.free := rfl

/-! ## fbForget -/

@[simp] theorem State.fbForget_configured (s : State) : (s.fbForget).configured = s.configured := rfl
@[simp] theorem State.fbForget_N (s : State) : (s.fbForget).N = s.N := rfl
@[simp] theorem State.fbForget_fb (s : State) : (s.fbForget).fb = [] := rfl
@[simp] theorem State.fbForget_cs (s : State) : (s.fbForget).cs = s.cs := rfl
@[simp] theorem State.fbForget_phase (s : State) : (s.fbForget).phase = s.phase := rfl
@[simp] theorem State.fbForget_mprog (s : State) : (s.fbForget).mprog = s.mprog := rfl
@[simp] theorem State.fbForget_mpc (s : State) : (s.fbForget).mpc = s.mpc := rfl
@[simp] theorem State.fbForget_pend (s : State) : (s.fbForget).pend = s.pend := rfl
@[simp] theorem State.fbForget_result (s : State) : (s.fbForget).result = s.result := rfl
@[simp] theorem State.fbForget_fault (s : State) : (s.fbForget).fault = s.fault := rfl
@[simp] theorem State.fbForget_rst (s : State) : (s.fbForget).rst = s.rst := rfl
@[simp] theorem State.fbForget_params (s : State) : (s.fbForget).params = s.params := rfl
@[simp] theorem State.fbForget_queue (s : State) : (s.fbForget).queue = s.queue := rfl
@[simp] theorem State.fbForget_stalled (s : State) : (s.fbForget).stalled = s.stalled := rfl
@[simp] theorem State.fbForget_chips (s : State) : (s.fbForget).chips = s.chips := rfl
@[simp] theorem State.fbForget_trace (s : State) : (s.fbForget).trace = s.trace := rfl
@[simp] theorem State.fbForget_statusReads (s : State) : (s.fbForget).statusReads = s.statusReads := rfl
@[simp] theorem State.fbForget_host (s : State) : (s.fbForget).host = s.host := rfl
@[simp] theorem State.fbForget_sched (s : State) : (s.fbForget).sched = s.sched := rfl
@[simp] theorem State.fbForget_latchPos (s : State) : (s.fbForget).latchPos = s.latchPos := rfl
@[simp] theorem State.fbForget_fbEpoch (s : State) : (s.fbForget).fbEpoch = s.fbEpoch + 1 := rfl
@[simp] theorem State.fbForget_free (s : State) : (s.fbForget).free = s.free := rfl

/-! ## forgetAllChips -/

@[simp] theorem State.forgetAllChips_configured (s : State) : (s.forgetAllChips).configured = s.configured := rfl
@[simp] theorem State.forgetAllChips_N (s : State) : (s.forgetAllChips).N = s.N := rfl
@[simp] theorem State.forgetAllChips_fb (s : State) : (s.forgetAllChips).fb = s.fb := rfl
@[simp] theorem State.forgetAllChips_cs (s : State) : (s.forgetAllChips).cs = s.cs := rfl
@[simp] theorem State.forgetAllChips_phase (s : State) : (s.forgetAllChips).phase = s.phase := rfl
@[simp] theorem State.forgetAllChips_mprog (s : State) : (s.forgetAllChips).mprog = s.mprog := rfl
@[simp] theorem State.forgetAllChips_mpc (s : State) : (s.forgetAllChips).mpc = s.mpc := rfl
@[simp] theorem State.forgetAllChips_pend (s : State) : (s.forgetAllChips).pend = s.pend := rfl
@[simp] theorem State.forgetAllChips_result (s : State) : (s.forgetAllChips).result = s.result := rfl
@[simp] theorem State.forgetAllChips_fault (s : State) : (s.forgetAllChips).fault = s.fault := rfl
@[simp] theorem State.forgetAllChips_rst (s : State) : (s.forgetAllChips).rst = s.rst := rfl
@[simp] theorem State.forgetAllChips_params (s : State) : (s.forgetAllChips).params = s.params := rfl
@[simp] theorem State.forgetAllChips_queue (s : State) : (s.forgetAllChips).queue = s.queue := rfl
@[simp] theorem State.forgetAllChips_stalled (s : State) : (s.forgetAllChips).stalled = s.stalled := rfl
@[simp] theorem State.forgetAllChips_chips (s : State) : (s.forgetAllChips).chips = forgetRegs s.free s.chips := rfl
@[simp] theorem State.forgetAllChips_trace (s : State) : (s.forgetAllChips).trace = s.trace := rfl
@[simp] theorem State.forgetAllChips_statusReads (s : State) : (s.forgetAllChips).statusReads = s.statusReads := rfl
@[simp] theorem State.forgetAllChips_host (s : State) : (s.forgetAllChips).host = s.host := rfl
@[simp] theorem State.forgetAllChips_sched (s : State) : (s.forgetAllChips).sched = s.sched := rfl
@[simp] theorem State.forgetAllChips_latchPos (s : State) : (s.forgetAllChips).latchPos = s.latchPos := rfl
@[simp] theorem State.forgetAllChips_fbEpoch (s : State) : (s.forgetAllChips).fbEpoch = s.fbEpoch := rfl
@[simp] theorem State.forgetAllChips_free (s : State) : (s.forgetAllChips).free = s.free + 15 * s.chips.length := rfl

/-! ## complete -/

@[simp] theorem State.complete_configured (s : State) (r : Result) : (s.complete r).configured = s.configured := rfl
@[simp] theorem State.complete_N (s : State) (r : Result) : (s.complete r).N = s.N := rfl
@[simp] theorem State.complete_fb (s : State) (r : Result) : (s.complete r).fb = s.fb := rfl
@[simp] theorem State.complete_cs (s : State) (r : Result) : (s.complete r).cs = s.cs := rfl
@[simp] theorem State.complete_phase (s : State) (r : Result) : (s.complete r).phase = .idle := rfl
@[simp] theorem State.complete_mprog (s : State) (r : Result) : (s.complete r).mprog = [] := rfl
@[simp] theorem State.complete_mpc (s : State) (r : Result) : (s.complete r).mpc = 0 := rfl
@[simp] theorem State.complete_pend (s : State) (r : Result) : (s.complete r).pend = none := rfl
@[simp] theorem State.complete_result (s : State) (r : Result) : (s.complete r).result = r := rfl
@[simp] theorem State.complete_fault (s : State) (r : Result) : (s.complete r).fault = s.fault := rfl
@[simp] theorem State.complete_rst (s : State) (r : Result) : (s.complete r).rst = s.rst := rfl
@[simp] theorem State.complete_params (s : State) (r : Result) : (s.complete r).params = s.params := rfl
@[simp] theorem State.complete_queue (s : State) (r : Result) : (s.complete r).queue = s.queue := rfl
@[simp] theorem State.complete_stalled (s : State) (r : Result) : (s.complete r).stalled = s.stalled := rfl
@[simp] theorem State.complete_chips (s : State) (r : Result) : (s.complete r).chips = s.chips := rfl
@[simp] theorem State.complete_trace (s : State) (r : Result) : (s.complete r).trace = s.trace := rfl
@[simp] theorem State.complete_statusReads (s : State) (r : Result) : (s.complete r).statusReads = s.statusReads := rfl
@[simp] theorem State.complete_host (s : State) (r : Result) : (s.complete r).host = s.host := rfl
@[simp] theorem State.complete_sched (s : State) (r : Result) : (s.complete r).sched = s.sched := rfl
@[simp] theorem State.complete_latchPos (s : State) (r : Result) : (s.complete r).latchPos = s.latchPos := rfl
@[simp] theorem State.complete_fbEpoch (s : State) (r : Result) : (s.complete r).fbEpoch = s.fbEpoch := rfl
@[simp] theorem State.complete_free (s : State) (r : Result) : (s.complete r).free = s.free := rfl

/-! ## raiseFault -/

@[simp] theorem State.raiseFault_configured (s : State) (c : FaultCode) : (s.raiseFault c).configured = s.configured := rfl
@[simp] theorem State.raiseFault_N (s : State) (c : FaultCode) : (s.raiseFault c).N = s.N := rfl
@[simp] theorem State.raiseFault_fb (s : State) (c : FaultCode) : (s.raiseFault c).fb = s.fb := rfl
@[simp] theorem State.raiseFault_cs (s : State) (c : FaultCode) : (s.raiseFault c).cs = s.cs := rfl
@[simp] theorem State.raiseFault_phase (s : State) (c : FaultCode) : (s.raiseFault c).phase = .faulted := rfl
@[simp] theorem State.raiseFault_mprog (s : State) (c : FaultCode) : (s.raiseFault c).mprog = s.mprog := rfl
@[simp] theorem State.raiseFault_mpc (s : State) (c : FaultCode) : (s.raiseFault c).mpc = s.mpc := rfl
@[simp] theorem State.raiseFault_pend (s : State) (c : FaultCode) : (s.raiseFault c).pend = s.pend := rfl
@[simp] theorem State.raiseFault_result (s : State) (c : FaultCode) : (s.raiseFault c).result = s.result := rfl
@[simp] theorem State.raiseFault_fault (s : State) (c : FaultCode) : (s.raiseFault c).fault = c := rfl
@[simp] theorem State.raiseFault_rst (s : State) (c : FaultCode) : (s.raiseFault c).rst = s.rst := rfl
@[simp] theorem State.raiseFault_params (s : State) (c : FaultCode) : (s.raiseFault c).params = s.params := rfl
@[simp] theorem State.raiseFault_queue (s : State) (c : FaultCode) : (s.raiseFault c).queue = s.queue := rfl
@[simp] theorem State.raiseFault_stalled (s : State) (c : FaultCode) : (s.raiseFault c).stalled = s.stalled := rfl
@[simp] theorem State.raiseFault_chips (s : State) (c : FaultCode) : (s.raiseFault c).chips = s.chips := rfl
@[simp] theorem State.raiseFault_trace (s : State) (c : FaultCode) : (s.raiseFault c).trace = s.trace := rfl
@[simp] theorem State.raiseFault_statusReads (s : State) (c : FaultCode) : (s.raiseFault c).statusReads = s.statusReads := rfl
@[simp] theorem State.raiseFault_host (s : State) (c : FaultCode) : (s.raiseFault c).host = s.host := rfl
@[simp] theorem State.raiseFault_sched (s : State) (c : FaultCode) : (s.raiseFault c).sched = s.sched := rfl
@[simp] theorem State.raiseFault_latchPos (s : State) (c : FaultCode) : (s.raiseFault c).latchPos = s.latchPos := rfl
@[simp] theorem State.raiseFault_fbEpoch (s : State) (c : FaultCode) : (s.raiseFault c).fbEpoch = s.fbEpoch := rfl
@[simp] theorem State.raiseFault_free (s : State) (c : FaultCode) : (s.raiseFault c).free = s.free := rfl

/-! ## configureTo -/

@[simp] theorem State.configureTo_configured (s : State) (n : Nat) : (s.configureTo n).configured = true := rfl
@[simp] theorem State.configureTo_N (s : State) (n : Nat) : (s.configureTo n).N = n := rfl
@[simp] theorem State.configureTo_fb (s : State) (n : Nat) : (s.configureTo n).fb = fbWriteRun s.fb 0 (List.replicate (8 * n) 0x00#8) := rfl
@[simp] theorem State.configureTo_cs (s : State) (n : Nat) : (s.configureTo n).cs = s.cs := rfl
@[simp] theorem State.configureTo_phase (s : State) (n : Nat) : (s.configureTo n).phase = s.phase := rfl
@[simp] theorem State.configureTo_mprog (s : State) (n : Nat) : (s.configureTo n).mprog = s.mprog := rfl
@[simp] theorem State.configureTo_mpc (s : State) (n : Nat) : (s.configureTo n).mpc = s.mpc := rfl
@[simp] theorem State.configureTo_pend (s : State) (n : Nat) : (s.configureTo n).pend = s.pend := rfl
@[simp] theorem State.configureTo_result (s : State) (n : Nat) : (s.configureTo n).result = s.result := rfl
@[simp] theorem State.configureTo_fault (s : State) (n : Nat) : (s.configureTo n).fault = s.fault := rfl
@[simp] theorem State.configureTo_rst (s : State) (n : Nat) : (s.configureTo n).rst = s.rst := rfl
@[simp] theorem State.configureTo_params (s : State) (n : Nat) : (s.configureTo n).params = s.params := rfl
@[simp] theorem State.configureTo_queue (s : State) (n : Nat) : (s.configureTo n).queue = s.queue := rfl
@[simp] theorem State.configureTo_stalled (s : State) (n : Nat) : (s.configureTo n).stalled = s.stalled := rfl
@[simp] theorem State.configureTo_chips (s : State) (n : Nat) : (s.configureTo n).chips = s.chips := rfl
@[simp] theorem State.configureTo_trace (s : State) (n : Nat) : (s.configureTo n).trace = s.trace := rfl
@[simp] theorem State.configureTo_statusReads (s : State) (n : Nat) : (s.configureTo n).statusReads = s.statusReads := rfl
@[simp] theorem State.configureTo_host (s : State) (n : Nat) : (s.configureTo n).host = s.host := rfl
@[simp] theorem State.configureTo_sched (s : State) (n : Nat) : (s.configureTo n).sched = s.sched := rfl
@[simp] theorem State.configureTo_latchPos (s : State) (n : Nat) : (s.configureTo n).latchPos = s.latchPos := rfl
@[simp] theorem State.configureTo_fbEpoch (s : State) (n : Nat) : (s.configureTo n).fbEpoch = s.fbEpoch := rfl
@[simp] theorem State.configureTo_free (s : State) (n : Nat) : (s.configureTo n).free = s.free := rfl

/-! ## modifyChip -/

@[simp] theorem State.modifyChip_configured (s : State) (p : Nat) (g : Chip → Chip) : (s.modifyChip p g).configured = s.configured := by cases p <;> rfl
@[simp] theorem State.modifyChip_N (s : State) (p : Nat) (g : Chip → Chip) : (s.modifyChip p g).N = s.N := by cases p <;> rfl
@[simp] theorem State.modifyChip_fb (s : State) (p : Nat) (g : Chip → Chip) : (s.modifyChip p g).fb = s.fb := by cases p <;> rfl
@[simp] theorem State.modifyChip_cs (s : State) (p : Nat) (g : Chip → Chip) : (s.modifyChip p g).cs = s.cs := by cases p <;> rfl
@[simp] theorem State.modifyChip_phase (s : State) (p : Nat) (g : Chip → Chip) : (s.modifyChip p g).phase = s.phase := by cases p <;> rfl
@[simp] theorem State.modifyChip_mprog (s : State) (p : Nat) (g : Chip → Chip) : (s.modifyChip p g).mprog = s.mprog := by cases p <;> rfl
@[simp] theorem State.modifyChip_mpc (s : State) (p : Nat) (g : Chip → Chip) : (s.modifyChip p g).mpc = s.mpc := by cases p <;> rfl
@[simp] theorem State.modifyChip_pend (s : State) (p : Nat) (g : Chip → Chip) : (s.modifyChip p g).pend = s.pend := by cases p <;> rfl
@[simp] theorem State.modifyChip_result (s : State) (p : Nat) (g : Chip → Chip) : (s.modifyChip p g).result = s.result := by cases p <;> rfl
@[simp] theorem State.modifyChip_fault (s : State) (p : Nat) (g : Chip → Chip) : (s.modifyChip p g).fault = s.fault := by cases p <;> rfl
@[simp] theorem State.modifyChip_rst (s : State) (p : Nat) (g : Chip → Chip) : (s.modifyChip p g).rst = s.rst := by cases p <;> rfl
@[simp] theorem State.modifyChip_params (s : State) (p : Nat) (g : Chip → Chip) : (s.modifyChip p g).params = s.params := by cases p <;> rfl
@[simp] theorem State.modifyChip_queue (s : State) (p : Nat) (g : Chip → Chip) : (s.modifyChip p g).queue = s.queue := by cases p <;> rfl
@[simp] theorem State.modifyChip_stalled (s : State) (p : Nat) (g : Chip → Chip) : (s.modifyChip p g).stalled = s.stalled := by cases p <;> rfl
@[simp] theorem State.modifyChip_trace (s : State) (p : Nat) (g : Chip → Chip) : (s.modifyChip p g).trace = s.trace := by cases p <;> rfl
@[simp] theorem State.modifyChip_statusReads (s : State) (p : Nat) (g : Chip → Chip) : (s.modifyChip p g).statusReads = s.statusReads := by cases p <;> rfl
@[simp] theorem State.modifyChip_host (s : State) (p : Nat) (g : Chip → Chip) : (s.modifyChip p g).host = s.host := by cases p <;> rfl
@[simp] theorem State.modifyChip_sched (s : State) (p : Nat) (g : Chip → Chip) : (s.modifyChip p g).sched = s.sched := by cases p <;> rfl
@[simp] theorem State.modifyChip_latchPos (s : State) (p : Nat) (g : Chip → Chip) : (s.modifyChip p g).latchPos = s.latchPos := by cases p <;> rfl
@[simp] theorem State.modifyChip_fbEpoch (s : State) (p : Nat) (g : Chip → Chip) : (s.modifyChip p g).fbEpoch = s.fbEpoch := by cases p <;> rfl
@[simp] theorem State.modifyChip_free (s : State) (p : Nat) (g : Chip → Chip) : (s.modifyChip p g).free = s.free := by cases p <;> rfl

/-! ## latchInto -/

@[simp] theorem State.latchInto_configured (s : State) (a : BitVec 4) (d : Byte) : (s.latchInto a d).configured = s.configured := by simp [State.latchInto]
@[simp] theorem State.latchInto_N (s : State) (a : BitVec 4) (d : Byte) : (s.latchInto a d).N = s.N := by simp [State.latchInto]
@[simp] theorem State.latchInto_fb (s : State) (a : BitVec 4) (d : Byte) : (s.latchInto a d).fb = s.fb := by simp [State.latchInto]
@[simp] theorem State.latchInto_cs (s : State) (a : BitVec 4) (d : Byte) : (s.latchInto a d).cs = s.cs := by simp [State.latchInto]
@[simp] theorem State.latchInto_phase (s : State) (a : BitVec 4) (d : Byte) : (s.latchInto a d).phase = s.phase := by simp [State.latchInto]
@[simp] theorem State.latchInto_mprog (s : State) (a : BitVec 4) (d : Byte) : (s.latchInto a d).mprog = s.mprog := by simp [State.latchInto]
@[simp] theorem State.latchInto_mpc (s : State) (a : BitVec 4) (d : Byte) : (s.latchInto a d).mpc = s.mpc := by simp [State.latchInto]
@[simp] theorem State.latchInto_pend (s : State) (a : BitVec 4) (d : Byte) : (s.latchInto a d).pend = s.pend := by simp [State.latchInto]
@[simp] theorem State.latchInto_result (s : State) (a : BitVec 4) (d : Byte) : (s.latchInto a d).result = s.result := by simp [State.latchInto]
@[simp] theorem State.latchInto_fault (s : State) (a : BitVec 4) (d : Byte) : (s.latchInto a d).fault = s.fault := by simp [State.latchInto]
@[simp] theorem State.latchInto_rst (s : State) (a : BitVec 4) (d : Byte) : (s.latchInto a d).rst = s.rst := by simp [State.latchInto]
@[simp] theorem State.latchInto_params (s : State) (a : BitVec 4) (d : Byte) : (s.latchInto a d).params = s.params := by simp [State.latchInto]
@[simp] theorem State.latchInto_queue (s : State) (a : BitVec 4) (d : Byte) : (s.latchInto a d).queue = s.queue := by simp [State.latchInto]
@[simp] theorem State.latchInto_stalled (s : State) (a : BitVec 4) (d : Byte) : (s.latchInto a d).stalled = s.stalled := by simp [State.latchInto]
@[simp] theorem State.latchInto_trace (s : State) (a : BitVec 4) (d : Byte) : (s.latchInto a d).trace = s.trace := by simp [State.latchInto]
@[simp] theorem State.latchInto_statusReads (s : State) (a : BitVec 4) (d : Byte) : (s.latchInto a d).statusReads = s.statusReads := by simp [State.latchInto]
@[simp] theorem State.latchInto_host (s : State) (a : BitVec 4) (d : Byte) : (s.latchInto a d).host = s.host := by simp [State.latchInto]
@[simp] theorem State.latchInto_sched (s : State) (a : BitVec 4) (d : Byte) : (s.latchInto a d).sched = s.sched := by simp [State.latchInto]
@[simp] theorem State.latchInto_latchPos (s : State) (a : BitVec 4) (d : Byte) : (s.latchInto a d).latchPos = s.latchPos := by simp [State.latchInto]
@[simp] theorem State.latchInto_fbEpoch (s : State) (a : BitVec 4) (d : Byte) : (s.latchInto a d).fbEpoch = s.fbEpoch := by simp [State.latchInto]
@[simp] theorem State.latchInto_free (s : State) (a : BitVec 4) (d : Byte) : (s.latchInto a d).free = s.free := by simp [State.latchInto]

/-! ## forgetChip -/

@[simp] theorem State.forgetChip_configured (s : State) (p : Nat) : (s.forgetChip p).configured = s.configured := by simp [State.forgetChip]
@[simp] theorem State.forgetChip_N (s : State) (p : Nat) : (s.forgetChip p).N = s.N := by simp [State.forgetChip]
@[simp] theorem State.forgetChip_fb (s : State) (p : Nat) : (s.forgetChip p).fb = s.fb := by simp [State.forgetChip]
@[simp] theorem State.forgetChip_cs (s : State) (p : Nat) : (s.forgetChip p).cs = s.cs := by simp [State.forgetChip]
@[simp] theorem State.forgetChip_phase (s : State) (p : Nat) : (s.forgetChip p).phase = s.phase := by simp [State.forgetChip]
@[simp] theorem State.forgetChip_mprog (s : State) (p : Nat) : (s.forgetChip p).mprog = s.mprog := by simp [State.forgetChip]
@[simp] theorem State.forgetChip_mpc (s : State) (p : Nat) : (s.forgetChip p).mpc = s.mpc := by simp [State.forgetChip]
@[simp] theorem State.forgetChip_pend (s : State) (p : Nat) : (s.forgetChip p).pend = s.pend := by simp [State.forgetChip]
@[simp] theorem State.forgetChip_result (s : State) (p : Nat) : (s.forgetChip p).result = s.result := by simp [State.forgetChip]
@[simp] theorem State.forgetChip_fault (s : State) (p : Nat) : (s.forgetChip p).fault = s.fault := by simp [State.forgetChip]
@[simp] theorem State.forgetChip_rst (s : State) (p : Nat) : (s.forgetChip p).rst = s.rst := by simp [State.forgetChip]
@[simp] theorem State.forgetChip_params (s : State) (p : Nat) : (s.forgetChip p).params = s.params := by simp [State.forgetChip]
@[simp] theorem State.forgetChip_queue (s : State) (p : Nat) : (s.forgetChip p).queue = s.queue := by simp [State.forgetChip]
@[simp] theorem State.forgetChip_stalled (s : State) (p : Nat) : (s.forgetChip p).stalled = s.stalled := by simp [State.forgetChip]
@[simp] theorem State.forgetChip_trace (s : State) (p : Nat) : (s.forgetChip p).trace = s.trace := by simp [State.forgetChip]
@[simp] theorem State.forgetChip_statusReads (s : State) (p : Nat) : (s.forgetChip p).statusReads = s.statusReads := by simp [State.forgetChip]
@[simp] theorem State.forgetChip_host (s : State) (p : Nat) : (s.forgetChip p).host = s.host := by simp [State.forgetChip]
@[simp] theorem State.forgetChip_sched (s : State) (p : Nat) : (s.forgetChip p).sched = s.sched := by simp [State.forgetChip]
@[simp] theorem State.forgetChip_latchPos (s : State) (p : Nat) : (s.forgetChip p).latchPos = s.latchPos := by simp [State.forgetChip]
@[simp] theorem State.forgetChip_fbEpoch (s : State) (p : Nat) : (s.forgetChip p).fbEpoch = s.fbEpoch := by simp [State.forgetChip]
@[simp] theorem State.forgetChip_free (s : State) (p : Nat) : (s.forgetChip p).free = s.free + 15 := rfl

end Sys2Proof.Machine
end

