-- ==== Sys2Proof/Laws/Ops.lean ====
section
/-!
SUPPORT. What each shared operation does, said once: framebuffer reads and writes, the chain's registers and its shift,
the acceptance checks, the lists of frames a transaction is made of.
-/

namespace Sys2Proof.Machine

/-! ## The framebuffer -/

/-- A read after a write (R51). -/
theorem fbLookup_fbWrite (m : List Host.Cell) (i : Nat) (v : Byte) (j : Nat) :
    fbLookup (fbWrite m i v) j = if j = i then some v else fbLookup m j := by
  induction m with
  | nil => simp only [fbWrite, fbLookup, eq_comm]
  | cons x rest ih =>
    obtain ⟨a, b⟩ := x
    simp only [fbWrite]
    split
    · simp only [fbLookup, eq_comm]
    · split
      · subst_vars; simp only [fbLookup]; split <;> simp_all [eq_comm]
      · simp only [fbLookup, ih]
        split
        · next h => rw [if_neg (by omega)]
        · rfl

/-- A read after a run of writes (R161, R163): the run's offsets hold the bytes, every other offset what it held. -/
theorem fbLookup_fbWriteRun (bs : List Byte) : ∀ (m : List Host.Cell) (c j : Nat),
    fbLookup (fbWriteRun m c bs) j =
      if c ≤ j ∧ j < c + bs.length then bs[j - c]? else fbLookup m j := by
  induction bs with
  | nil => intro m c j; simp only [fbWriteRun, List.length_nil]; rw [if_neg (by omega)]
  | cons b bs ih =>
    intro m c j
    simp only [fbWriteRun, ih, fbLookup_fbWrite, List.length_cons]
    by_cases h : j = c
    · subst h; simp
    · by_cases h2 : c + 1 ≤ j ∧ j < c + 1 + bs.length
      · rw [if_pos h2, if_pos (by omega), show j - c = (j - (c + 1)) + 1 by omega, List.getElem?_cons_succ]
      · rw [if_neg h2, if_neg h, if_neg (by omega)]

/-- The first cell of a canonical list, if any, is above a given offset, and so the offset may stand before it. -/
theorem fbWf_cons (a : Nat) (b : Byte) (m : List Host.Cell) :
    fbWf ((a, b) :: m) = true ↔ (∀ x ∈ m.head?, a < x.1) ∧ fbWf m = true := by
  cases m with
  | nil => simp [fbWf]
  | cons x rest => obtain ⟨c, y⟩ := x; simp [fbWf]

/-- A write keeps the first offset, or puts its own first. -/
theorem fbWrite_head (m : List Host.Cell) (i : Nat) (v : Byte) (k : Nat) (hk : k < i)
    (hm : ∀ x ∈ m.head?, k < x.1) : ∀ x ∈ (fbWrite m i v).head?, k < x.1 := by
  cases m with
  | nil => simpa [fbWrite] using hk
  | cons y rest =>
    obtain ⟨a, b⟩ := y
    have ha : k < a := by simpa using hm
    simp only [fbWrite]
    split
    · simpa using hk
    · split <;> simpa using by assumption

/-- A write keeps the canonical form. -/
theorem fbWf_fbWrite (m : List Host.Cell) (i : Nat) (v : Byte) (h : fbWf m = true) :
    fbWf (fbWrite m i v) = true := by
  induction m with
  | nil => rfl
  | cons x rest ih =>
    obtain ⟨a, b⟩ := x
    rw [fbWf_cons] at h
    simp only [fbWrite]
    split
    · next hi => rw [fbWf_cons, fbWf_cons]; exact ⟨by simpa using hi, h⟩
    · split
      · next hi => subst hi; rw [fbWf_cons]; exact h
      · rw [fbWf_cons]; exact ⟨fbWrite_head rest i v a (by omega) h.1, ih h.2⟩

/-- A run of writes keeps the canonical form. -/
theorem fbWf_fbWriteRun (bs : List Byte) : ∀ (m : List Host.Cell) (c : Nat), fbWf m = true →
    fbWf (fbWriteRun m c bs) = true := by
  induction bs with
  | nil => intro m c h; exact h
  | cons b bs ih => intro m c h; exact ih _ _ (fbWf_fbWrite m c b h)

/-- The cells a write leaves: its own and old ones. -/
theorem mem_fbWrite (m : List Host.Cell) (i : Nat) (v : Byte) (x : Host.Cell) (h : x ∈ fbWrite m i v) :
    x = (i, v) ∨ x ∈ m := by
  induction m with
  | nil => simpa [fbWrite] using h
  | cons y rest ih =>
    obtain ⟨a, b⟩ := y
    simp only [fbWrite] at h
    split at h
    · simpa using h
    · split at h
      · rcases List.mem_cons.1 h with h | h
        · exact .inl h
        · exact .inr (List.mem_cons_of_mem _ h)
      · rcases List.mem_cons.1 h with h | h
        · exact .inr (h ▸ List.mem_cons_self)
        · exact (ih h).imp id (List.mem_cons_of_mem _)

/-- The cells a run of writes leaves lie in the run or are old ones. -/
theorem mem_fbWriteRun (bs : List Byte) : ∀ (m : List Host.Cell) (c : Nat) (x : Host.Cell),
    x ∈ fbWriteRun m c bs → (c ≤ x.1 ∧ x.1 < c + bs.length) ∨ x ∈ m := by
  induction bs with
  | nil => intro m c x h; exact .inr h
  | cons b bs ih =>
    intro m c x h
    rcases ih _ _ _ h with h | h
    · exact .inl (by simp only [List.length_cons]; omega)
    · rcases mem_fbWrite _ _ _ _ h with h | h
      · subst h; exact .inl (by simp)
      · exact .inr h

/-- The framebuffer of the reset state is canonical. -/
theorem fbWf_reset : fbWf State.reset.fb = true := rfl

/-- Where a byte is listed the engine reads it. -/
theorem fbByte_of_lookup {s : State} {i : Nat} {b : Byte} (h : fbLookup s.fb i = some b) : s.fbByte i = b := by
  simp [State.fbByte, h]

/-! ## The chain -/

/-- A chip's register after `ChipReg[a] <- d` (R107). -/
theorem chipReg_chipSet (c : Chip) (a : BitVec 4) (d : Byte) (b : BitVec 4) :
    chipReg (chipSet c a d) b = if b ≠ 0 ∧ b = a then some d else chipReg c b := by
  have ha := a.isLt
  have hb := b.isLt
  by_cases h0 : b = 0
  · simp [chipReg, h0]
  · by_cases ha0 : a = 0
    · rw [chipSet, if_pos ha0, if_neg (by rintro ⟨_, rfl⟩; exact h0 ha0)]
    · have hb' : b.toNat ≠ 0 := fun h => h0 (BitVec.eq_of_toNat_eq (by simpa using h))
      have ha' : a.toNat ≠ 0 := fun h => ha0 (BitVec.eq_of_toNat_eq (by simpa using h))
      simp only [chipReg, chipSet, if_neg h0, if_neg ha0]
      by_cases hab : b = a
      · subst hab
        rw [if_pos ⟨h0, rfl⟩]
        have : b.toNat - 1 < 15 := by omega
        simp [this]
      · rw [if_neg (by tauto)]
        have : a.toNat - 1 ≠ b.toNat - 1 := by
          intro h; exact hab (BitVec.eq_of_toNat_eq (by omega))
        simp [this]

@[simp] theorem chipSet_shift (c : Chip) (a : BitVec 4) (d : Byte) : (chipSet c a d).shift = c.shift := by
  simp only [chipSet]; split <;> rfl

/-- Every address but 0 names a register of every chip (R39(c)). -/
theorem chipReg_isSome (c : Chip) (a : BitVec 4) : (chipReg c a).isSome = true ↔ a ≠ 0 := by
  have ha := a.isLt
  by_cases h : a = 0
  · simp [chipReg, h]
  · have : a.toNat ≠ 0 := fun h' => h (BitVec.eq_of_toNat_eq (by simpa using h'))
    have h15 : a.toNat - 1 < 15 := by omega
    simp [chipReg, h15]

/-- The chip at a position after one chip is changed. -/
theorem chipAt_modifyChip (s : State) (p : Nat) (g : Chip → Chip) (q : Nat) :
    (s.modifyChip p g).chipAt q = if q = p then (s.chipAt q).map g else s.chipAt q := by
  cases p with
  | zero => cases q <;> simp [State.modifyChip, State.chipAt]
  | succ p =>
    cases q with
    | zero => simp [State.chipAt]
    | succ q =>
      simp only [State.modifyChip, State.chipAt, List.getElem?_modify, Nat.add_right_cancel_iff]
      by_cases h : p = q
      · subst h; simp
      · rw [if_neg (fun h' => h h'.symm)]
        cases s.chips[q]? <;> simp [h]

@[simp] theorem modifyChip_chips_length (s : State) (p : Nat) (g : Chip → Chip) :
    (s.modifyChip p g).chips.length = s.chips.length := by
  cases p <;> simp [State.modifyChip]

@[simp] theorem latchInto_chips_length (s : State) (a : BitVec 4) (d : Byte) :
    (s.latchInto a d).chips.length = s.chips.length := by simp [State.latchInto]

@[simp] theorem forgetChip_chips_length (s : State) (p : Nat) :
    (s.forgetChip p).chips.length = s.chips.length := by
  simp only [State.forgetChip]; exact modifyChip_chips_length ..

@[simp] theorem shiftIn_length (f : Frame) (cs : List Chip) : (shiftIn f cs).length = cs.length := by
  induction cs generalizing f with
  | nil => rfl
  | cons c cs ih => simp [shiftIn, ih]

@[simp] theorem forgetRegs_length (k : Nat) (cs : List Chip) : (forgetRegs k cs).length = cs.length := by
  induction cs generalizing k with
  | nil => rfl
  | cons c cs ih => simp [forgetRegs, ih]

/-- Chip registers that become any value leave the shift registers as they were (R240). -/
@[simp] theorem forgetRegs_shifts (k : Nat) (cs : List Chip) : (forgetRegs k cs).map Chip.shift = cs.map Chip.shift := by
  induction cs generalizing k with
  | nil => rfl
  | cons c cs ih => simp [forgetRegs, ih]

theorem State.forgetAllChips_shifts (s : State) : s.forgetAllChips.chips.map Chip.shift = s.chips.map Chip.shift :=
  forgetRegs_shifts _ _

/-! ## Reset -/

/-- The chips after a reset: as they were where it makes no edge (log 23), else with any register value (R231, log 10). -/
theorem State.applyReset_chips (s : State) :
    s.applyReset.chips = if s.cs then s.chips else forgetRegs s.free s.chips := by
  unfold State.applyReset; cases s.cs <;> rfl

/-- The trace after a reset: `SelHigh` is emitted exactly if the select line was active (R230). -/
theorem State.applyReset_trace (s : State) :
    s.applyReset.trace = if s.cs then s.trace else s.trace ++ [.selHigh] := by
  unfold State.applyReset; cases s.cs <;> rfl

/-! ## Acceptance -/

/-- In IDLE a configured engine runs a command's own part (R207). -/
theorem needConfigured_idle {s : State} (k : State) (hp : s.phase = .idle) (hc : s.configured = true) :
    s.needConfigured k = .next k := by simp [State.needConfigured, State.accepting, hp, hc]

/-- In IDLE an unconfigured engine raises UNCONFIGURED_USE (R204). -/
theorem needConfigured_fault {s : State} (k : State) (hp : s.phase = .idle) (hc : s.configured = false) :
    s.needConfigured k = .next (s.raiseFault .unconfiguredUse) := by
  simp [State.needConfigured, State.accepting, hp, hc]

/-- Outside IDLE no header is accepted (R34). -/
theorem needConfigured_notIdle {s : State} (k : State) (hp : s.phase ≠ .idle) : s.needConfigured k = .next s := by
  simp [State.needConfigured, State.accepting, hp]

theorem needUnconfigured_idle {s : State} (k : State) (hp : s.phase = .idle) (hc : s.configured = false) :
    s.needUnconfigured k = .next k := by simp [State.needUnconfigured, State.accepting, hp, hc]

/-- In IDLE a configured engine raises RECONFIGURE on CONFIGURE (R126). -/
theorem needUnconfigured_fault {s : State} (k : State) (hp : s.phase = .idle) (hc : s.configured = true) :
    s.needUnconfigured k = .next (s.raiseFault .reconfigure) := by
  simp [State.needUnconfigured, State.accepting, hp, hc]

theorem needUnconfigured_notIdle {s : State} (k : State) (hp : s.phase ≠ .idle) :
    s.needUnconfigured k = .next s := by simp [State.needUnconfigured, State.accepting, hp]

/-- Everything a configured-only command's acceptance can do: its own part, the fault, or nothing. -/
theorem needConfigured_cases {s t : State} {k : State} (h : s.needConfigured k = .next t) :
    (s.phase = .idle ∧ s.configured = true ∧ t = k) ∨
      (s.phase = .idle ∧ s.configured = false ∧ t = s.raiseFault .unconfiguredUse) ∨ (s.phase ≠ .idle ∧ t = s) := by
  by_cases hp : s.phase = .idle
  · cases hc : s.configured
    · rw [needConfigured_fault k hp hc] at h; cases h; exact .inr (.inl ⟨hp, rfl, rfl⟩)
    · rw [needConfigured_idle k hp hc] at h; cases h; exact .inl ⟨hp, rfl, rfl⟩
  · rw [needConfigured_notIdle k hp] at h; cases h; exact .inr (.inr ⟨hp, rfl⟩)

/-- Everything CONFIGURE's acceptance can do. -/
theorem needUnconfigured_cases {s t : State} {k : State} (h : s.needUnconfigured k = .next t) :
    (s.phase = .idle ∧ s.configured = false ∧ t = k) ∨
      (s.phase = .idle ∧ s.configured = true ∧ t = s.raiseFault .reconfigure) ∨ (s.phase ≠ .idle ∧ t = s) := by
  by_cases hp : s.phase = .idle
  · cases hc : s.configured
    · rw [needUnconfigured_idle k hp hc] at h; cases h; exact .inl ⟨hp, rfl, rfl⟩
    · rw [needUnconfigured_fault k hp hc] at h; cases h; exact .inr (.inl ⟨hp, rfl, rfl⟩)
  · rw [needUnconfigured_notIdle k hp] at h; cases h; exact .inr (.inr ⟨hp, rfl⟩)

/-- A non-empty micro-program starts EXEC at its first micro-operation (R36). -/
theorem runProgram_of_ne_nil {s : State} {prog : List MicroOp} (h : prog ≠ []) :
    s.runProgram prog = { s with phase := .exec, mprog := prog, mpc := 0 } := by simp [State.runProgram, h]

@[simp] theorem runProgram_nil (s : State) : s.runProgram [] = s.complete .ok := by simp [State.runProgram]

/-! ## Runs and transactions -/

/-- `validRun` is the inequality of R160. -/
theorem validRun_iff (n c l : Nat) : validRun n c l = true ↔ 0 < l ∧ c + l - 1 < 8 * n := by
  simp [validRun]

@[simp] theorem walk_length (g : Nat → Frame) (n : Nat) : (walk g n).length = n := by
  induction n with
  | zero => rfl
  | succ n ih => simp [walk, ih]

/-- The walk's frames in send order: the `k`-th (from 0) is the one for physical position `n − k` (R140). -/
theorem walk_getElem? (g : Nat → Frame) (n k : Nat) :
    (walk g n)[k]? = if k < n then some (g (n - k)) else none := by
  induction n generalizing k with
  | zero => simp [walk]
  | succ n ih =>
    cases k with
    | zero => simp [walk]
    | succ k => simp only [walk, List.getElem?_cons_succ, ih]; simp [Nat.succ_sub_succ]

/-- A transaction of `m` frames has `m + 2` micro-operations (R109, R242). -/
@[simp] theorem txn_length (fs : List Frame) : (txn fs).length = fs.length + 2 := by simp [txn]

theorem txn_ne_nil (fs : List Frame) : txn fs ≠ [] := by simp [txn]

/-! ## The end of a framebuffer update -/

/-- A valid run has its bytes written and completes with OK (R161, R162). -/
theorem updateRun_of_valid {s : State} {c l : Nat} (bytes : List Byte) (h : 0 < l ∧ c + l - 1 < 8 * s.N) :
    s.updateRun c l bytes = ({ s with fb := fbWriteRun s.fb c bytes } : State).complete .ok := by
  rw [State.updateRun, if_pos ((validRun_iff _ _ _).2 h)]

/-- An invalid run completes with OFFSET_ERROR and nothing else (R163, R201). -/
theorem updateRun_of_invalid {s : State} {c l : Nat} (bytes : List Byte) (h : ¬ (0 < l ∧ c + l - 1 < 8 * s.N)) :
    s.updateRun c l bytes = s.complete .offsetError := by
  rw [State.updateRun, if_neg (mt (validRun_iff _ _ _).1 h)]

end Sys2Proof.Machine
end

