-- ==== Sys2Proof/Laws/PerInstr.lean ====
section
/-!
SUPPORT. Statements made for every instruction of the table. `FixedBits`: the fields the table fixes for a row (its mask
and match) are what the row says in every encoding of it.
-/

namespace Sys2Proof.Laws

open Sys2Proof

/-- The fields of a command header that are the same for every command of a row (R71, R76). -/
def FixedBits.commandRow (op : BitVec 4) (m : BitVec 1) (c : CodeWord) : Prop :=
  match c with
  | .command w => opField w = op ∧ modeField w = m ∧ rsvField w = 0
  | .frame _ => False

/-- The field of a frame that is the same for every frame of a row (R81). -/
def FixedBits.frameRow (a : BitVec 4) (c : CodeWord) : Prop :=
  match c with
  | .command _ => False
  | .frame f => frameAddr f = a

/-- Each instruction's encoding carries its row's fixed fields. -/
def FixedBits.Statement : Instr → Prop
  | .configure n => FixedBits.commandRow 0x1#4 0#1 (encode (.configure n))
  | .teardown => FixedBits.commandRow 0x2#4 0#1 (encode .teardown)
  | .writeRegister k f => FixedBits.commandRow 0x3#4 0#1 (encode (.writeRegister k f))
  | .writeAllRegisters f => FixedBits.commandRow 0x4#4 0#1 (encode (.writeAllRegisters f))
  | .updateBufferReplicate c l v => FixedBits.commandRow 0x5#4 0#1 (encode (.updateBufferReplicate c l v))
  | .updateBufferSequence c l => FixedBits.commandRow 0x5#4 1#1 (encode (.updateBufferSequence c l))
  | .refresh => FixedBits.commandRow 0x6#4 0#1 (encode .refresh)
  | .frameNoop z d => FixedBits.frameRow 0x0#4 (encode (.frameNoop z d))
  | .frameDigit0 z d => FixedBits.frameRow 0x1#4 (encode (.frameDigit0 z d))
  | .frameDigit1 z d => FixedBits.frameRow 0x2#4 (encode (.frameDigit1 z d))
  | .frameDigit2 z d => FixedBits.frameRow 0x3#4 (encode (.frameDigit2 z d))
  | .frameDigit3 z d => FixedBits.frameRow 0x4#4 (encode (.frameDigit3 z d))
  | .frameDigit4 z d => FixedBits.frameRow 0x5#4 (encode (.frameDigit4 z d))
  | .frameDigit5 z d => FixedBits.frameRow 0x6#4 (encode (.frameDigit5 z d))
  | .frameDigit6 z d => FixedBits.frameRow 0x7#4 (encode (.frameDigit6 z d))
  | .frameDigit7 z d => FixedBits.frameRow 0x8#4 (encode (.frameDigit7 z d))
  | .frameDecodeMode z d => FixedBits.frameRow 0x9#4 (encode (.frameDecodeMode z d))
  | .frameIntensity z d => FixedBits.frameRow 0xA#4 (encode (.frameIntensity z d))
  | .frameScanLimit z d => FixedBits.frameRow 0xB#4 (encode (.frameScanLimit z d))
  | .frameShutdown z d => FixedBits.frameRow 0xC#4 (encode (.frameShutdown z d))
  | .frameDisplayTest z d => FixedBits.frameRow 0xF#4 (encode (.frameDisplayTest z d))

theorem FixedBits.configure (n : Nat) : FixedBits.Statement (.configure n) :=
  ⟨opField_header .., modeField_header .., rsvField_header ..⟩

theorem FixedBits.teardown : FixedBits.Statement .teardown :=
  ⟨opField_header .., modeField_header .., rsvField_header ..⟩

theorem FixedBits.writeRegister (k : Nat) (f : Frame) : FixedBits.Statement (.writeRegister k f) :=
  ⟨opField_header .., modeField_header .., rsvField_header ..⟩

theorem FixedBits.writeAllRegisters (f : Frame) : FixedBits.Statement (.writeAllRegisters f) :=
  ⟨opField_header .., modeField_header .., rsvField_header ..⟩

theorem FixedBits.updateBufferReplicate (c : Nat) (l : Nat) (v : Byte) : FixedBits.Statement (.updateBufferReplicate c l v) :=
  ⟨opField_header .., modeField_header .., rsvField_header ..⟩

theorem FixedBits.updateBufferSequence (c : Nat) (l : Nat) : FixedBits.Statement (.updateBufferSequence c l) :=
  ⟨opField_header .., modeField_header .., rsvField_header ..⟩

theorem FixedBits.refresh : FixedBits.Statement .refresh :=
  ⟨opField_header .., modeField_header .., rsvField_header ..⟩

theorem FixedBits.frameNoop (z : BitVec 4) (d : Byte) : FixedBits.Statement (.frameNoop z d) :=
  frameAddr_rawFrame z _ d

theorem FixedBits.frameDigit0 (z : BitVec 4) (d : Byte) : FixedBits.Statement (.frameDigit0 z d) :=
  frameAddr_rawFrame z _ d

theorem FixedBits.frameDigit1 (z : BitVec 4) (d : Byte) : FixedBits.Statement (.frameDigit1 z d) :=
  frameAddr_rawFrame z _ d

theorem FixedBits.frameDigit2 (z : BitVec 4) (d : Byte) : FixedBits.Statement (.frameDigit2 z d) :=
  frameAddr_rawFrame z _ d

theorem FixedBits.frameDigit3 (z : BitVec 4) (d : Byte) : FixedBits.Statement (.frameDigit3 z d) :=
  frameAddr_rawFrame z _ d

theorem FixedBits.frameDigit4 (z : BitVec 4) (d : Byte) : FixedBits.Statement (.frameDigit4 z d) :=
  frameAddr_rawFrame z _ d

theorem FixedBits.frameDigit5 (z : BitVec 4) (d : Byte) : FixedBits.Statement (.frameDigit5 z d) :=
  frameAddr_rawFrame z _ d

theorem FixedBits.frameDigit6 (z : BitVec 4) (d : Byte) : FixedBits.Statement (.frameDigit6 z d) :=
  frameAddr_rawFrame z _ d

theorem FixedBits.frameDigit7 (z : BitVec 4) (d : Byte) : FixedBits.Statement (.frameDigit7 z d) :=
  frameAddr_rawFrame z _ d

theorem FixedBits.frameDecodeMode (z : BitVec 4) (d : Byte) : FixedBits.Statement (.frameDecodeMode z d) :=
  frameAddr_rawFrame z _ d

theorem FixedBits.frameIntensity (z : BitVec 4) (d : Byte) : FixedBits.Statement (.frameIntensity z d) :=
  frameAddr_rawFrame z _ d

theorem FixedBits.frameScanLimit (z : BitVec 4) (d : Byte) : FixedBits.Statement (.frameScanLimit z d) :=
  frameAddr_rawFrame z _ d

theorem FixedBits.frameShutdown (z : BitVec 4) (d : Byte) : FixedBits.Statement (.frameShutdown z d) :=
  frameAddr_rawFrame z _ d

theorem FixedBits.frameDisplayTest (z : BitVec 4) (d : Byte) : FixedBits.Statement (.frameDisplayTest z d) :=
  frameAddr_rawFrame z _ d

end Sys2Proof.Laws
end

