-- ==== Sys2Proof/Laws/Steps.lean ====
section
/-!
SUPPORT. What a frame, the latch edge, a micro-operation, an agent's turn and a step can do, each said once.
-/

namespace Sys2Proof.Machine

/-! ## Frames and the latch edge -/

/-- Register address 0 latches nothing (R82). -/
theorem latchInto_zero (s : State) (d : Byte) : s.latchInto 0 d = s := by
  have h : (fun c => chipSet c 0 d) = id := by funext c; simp [chipSet]
  simp only [State.latchInto, h]
  cases s.latchPos with
  | zero => rfl
  | succ q =>
    have hm : s.chips.modify q id = s.chips := by
      apply List.ext_getElem?; intro i; rw [List.getElem?_modify]; cases s.chips[i]? <;> simp
    simp only [State.modifyChip, hm]

/-- A frame that decodes writes its data byte to the register its address names, in the chip the latch edge is at. -/
theorem exec_frame {f : Frame} {i : Instr} (h : decodeFrame f = .ok i) (s : State) :
    exec i s = .next (s.latchInto (frameAddr f) (frameData f)) := by
  have addr : ∀ n : Nat, (frameAddr f).toNat = n → frameAddr f = BitVec.ofNat 4 n := by
    intro n hn; apply BitVec.eq_of_toNat_eq; have := (frameAddr f).isLt; rw [BitVec.toNat_ofNat, hn]; omega
  simp only [decodeFrame] at h
  split at h <;> cases h
  case h_1 ha => rw [addr _ ha]; exact congrArg _ (latchInto_zero s _).symm
  all_goals (rename_i ha; rw [addr _ ha]; rfl)

/-- One chip's latch: only the chips' registers, the latch position and the free counter can change. -/
theorem latchChip_next (s : State) (p : Nat) : ∃ cs q k,
    s.latchChip p = .next { s with chips := cs, latchPos := q, free := k } ∧ cs.length = s.chips.length := by
  simp only [State.latchChip]
  split
  · exact ⟨s.chips, s.latchPos, s.free, rfl, rfl⟩
  · next c _ =>
    split
    · next i hi =>
      refine ⟨(({ s with latchPos := p } : State).latchInto (frameAddr c.shift) (frameData c.shift)).chips, p, s.free, ?_, ?_⟩
      · rw [exec_frame hi]; congr 1; cases p <;> rfl
      · simp
    · exact ⟨(s.forgetChip p).chips, s.latchPos, s.free + 15, by cases p <;> rfl, by simp⟩

/-- The latch of several chips: the same frame. -/
theorem latchChips_next (k : Nat) : ∀ (p : Nat) (s : State), ∃ cs j,
    latchChips k p s = .next { s with chips := cs, latchPos := 1, free := j } ∧ cs.length = s.chips.length := by
  induction k with
  | zero => intro p s; exact ⟨s.chips, s.free, rfl, rfl⟩
  | succ k ih =>
    intro p s
    obtain ⟨cs, q, j, h, hl⟩ := latchChip_next s p
    obtain ⟨cs', j', h', hl'⟩ := ih (p + 1) { s with chips := cs, latchPos := q, free := j }
    exact ⟨cs', j', by simp only [latchChips, h, andThen, h'], by rw [hl', hl]⟩

/-- The latch edge answers a next state in which only the chips' registers, the latch position and the free counter can
differ (R107). -/
theorem latchEdge_next (s : State) : ∃ cs q k,
    s.latchEdge = .next { s with chips := cs, latchPos := q, free := k } ∧ cs.length = s.chips.length := by
  simp only [State.latchEdge]
  split
  · obtain ⟨cs, k, h, hl⟩ := latchChips_next s.chips.length 1 s
    exact ⟨cs, 1, k, h, hl⟩
  · exact ⟨forgetRegs s.free s.chips, s.latchPos, s.free + 15 * s.chips.length, rfl, by simp⟩

/-! ## Micro-operations -/

/-- Everything a micro-operation can do: hold, or one of the four effects (R103 to R106). -/
theorem runMicro_cases (s : State) (op : MicroOp) :
    (s.held op = true ∧ s.runMicro op = .next s) ∨
      (s.held op = false ∧
        ((op = .beginTxn ∧ s.runMicro op = .next { s.emit .selLow with cs := false, mpc := s.mpc + 1 }) ∨
          (∃ f, op = .send f ∧ s.runMicro op = .next { (s.enqueue f).emit (.enq f) with mpc := s.mpc + 1 }) ∨
          (op = .endTxn ∧ ∃ cs q k, cs.length = s.chips.length ∧
            s.runMicro op = .next { s.emit .selHigh with
              cs := true, mpc := s.mpc + 1, chips := cs, latchPos := q, free := k }) ∨
          (op = .deselect ∧ s.runMicro op = .next { s with cs := true, mpc := s.mpc + 1 }))) := by
  simp only [State.runMicro]
  cases hh : s.held op
  · refine .inr ⟨rfl, ?_⟩
    cases op with
    | beginTxn => exact .inl ⟨rfl, rfl⟩
    | send f => exact .inr (.inl ⟨f, rfl, rfl⟩)
    | endTxn =>
      obtain ⟨cs, q, k, h, hl⟩ := latchEdge_next { s.emit .selHigh with cs := true, mpc := s.mpc + 1 }
      exact .inr (.inr (.inl ⟨rfl, cs, q, k, hl, h⟩))
    | deselect => exact .inr (.inr (.inr ⟨rfl, rfl⟩))
  · exact .inl ⟨rfl, rfl⟩

/-! ## Turns -/

/-- Everything the engine's turn can do (R36, R113). -/
theorem engineTurn_cases {s t : State} (h : engineTurn s = .next t) :
    (s.phase ≠ .exec ∧ t = s) ∨
      (s.phase = .exec ∧ s.mprog[s.mpc]? = none ∧ t = s.complete .ok) ∨
      (s.phase = .exec ∧ ∃ op u, s.mprog[s.mpc]? = some op ∧ s.runMicro op = .next u ∧ t = u.finish) := by
  simp only [engineTurn] at h
  split at h
  · next hp =>
    split at h
    · next op hop =>
      rcases runMicro_cases s op with ⟨_, hr⟩ | ⟨_, ⟨_, hr⟩ | ⟨_, _, hr⟩ | ⟨_, _, _, _, _, hr⟩ | ⟨_, hr⟩⟩ <;>
        · rw [hr] at h
          exact .inr (.inr ⟨hp, op, _, hop, hr, by simpa [andThen] using h.symm⟩)
    · next hop => exact .inr (.inl ⟨hp, hop, by simpa using h.symm⟩)
  all_goals (next hp => exact .inl ⟨by simp [hp], by simpa using h.symm⟩)

/-- Everything the transport's turn can do (R102). -/
theorem transportTurn_cases {s t : State} (h : transportTurn s = .next t) :
    t = s ∨ ∃ f q, s.stalled = false ∧ s.queue = f :: q ∧ t = { s with queue := q, chips := shiftIn f s.chips } := by
  simp only [transportTurn] at h
  split at h
  · exact .inl (by simpa using h.symm)
  · next hs =>
    split at h
    · exact .inl (by simpa using h.symm)
    · next f q hq => exact .inr ⟨f, q, by simpa using hs, hq, by simpa using h.symm⟩

/-- Everything the host's turn can do (R34, R243). -/
theorem hostTurn_cases {s t : State} (h : hostTurn s = .next t) :
    t = s ∨
      (∃ rest, s.host = .readStatus :: rest ∧
        t = { s with host := rest, statusReads := s.statusReads ++ [s.status] }) ∨
      (∃ rest, s.host = .assertReset :: rest ∧ t = { s with host := rest, rst := true }) ∨
      (∃ w rest, s.host = .word w :: rest ∧ s.phase = .idle ∧
        ({ s with host := rest } : State).acceptHeader w = .next t) ∨
      (∃ w rest, s.host = .word w :: rest ∧ s.phase = .collect ∧
        ({ s with host := rest } : State).acceptPayload w = .next t) := by
  simp only [hostTurn] at h
  split at h
  · exact .inl (by simpa using h.symm)
  · next w rest hh =>
    simp only [State.presentWord] at h
    split at h
    · next hp => exact .inr (.inr (.inr (.inl ⟨w, rest, hh, hp, h⟩)))
    · next hp => exact .inr (.inr (.inr (.inr ⟨w, rest, hh, hp, h⟩)))
    all_goals exact .inl (by simpa using h.symm)
  · next rest hh => exact .inr (.inl ⟨rest, hh, by simpa using h.symm⟩)
  · next rest hh => exact .inr (.inr (.inl ⟨rest, hh, by simpa using h.symm⟩))

/-- A payload word's effect where a header is pending (R36, R163). -/
theorem acceptPayload_cases {s t : State} {w : CmdWord} (h : s.acceptPayload w = .next t) :
    ∃ p, s.pend = some p ∧
      ((p.remaining ≤ 1 ∧ t = s.updateRun p.offset p.length (collectBytes p w)) ∨
        (1 < p.remaining ∧
          t = { s with pend := some { p with received := collectBytes p w, remaining := p.remaining - 1 } })) := by
  simp only [State.acceptPayload] at h
  split at h
  · cases h
  · next p hp =>
    refine ⟨p, hp, ?_⟩
    split at h
    · next hr => exact .inl ⟨hr, by simpa using h.symm⟩
    · next hr => exact .inr ⟨by omega, by simpa using h.symm⟩

/-- A step is the reset, or one agent's turn after its entry in the schedule is used up (R19, R208). -/
theorem step_cases {s t : State} (h : step s = .next t) :
    (s.rst = true ∧ t = s.applyReset) ∨
      (s.rst = false ∧ ∃ a u, (∃ rest, s.sched = a :: rest ∧ u = { s with sched := rest } ∨
        s.sched = [] ∧ a = s.defaultAgent ∧ u = s) ∧ agentTurn a u = .next t) := by
  simp only [step, oneStep] at h
  split at h
  · next hr => exact .inl ⟨hr, by simpa using h.symm⟩
  · next hr =>
    refine .inr ⟨by simpa using hr, ?_⟩
    split at h
    · next a rest hs => exact ⟨a, _, ⟨rest, .inl ⟨hs, rfl⟩⟩, h⟩
    · next hs => exact ⟨_, s, ⟨[], .inr ⟨hs, rfl, rfl⟩⟩, h⟩

end Sys2Proof.Machine
end

