-- ==== Sys2Proof/Laws/Safety.lean ====
section
/-!
SUPPORT. Laws of the predicates of Safety.lean: turns, composition of gate and bus runs, what the invariant says in each
phase.
-/

namespace Sys2Proof.Machine

/-! ## Turns -/

/-- Without a reset a step is the turn `turnOf` names. -/
theorem step_turnOf {s u : State} {a : Agent} (hr : s.rst = false) (h : s.turnOf = (a, u)) : step s = agentTurn a u := by
  simp only [State.turnOf] at h
  simp only [step, oneStep, hr]
  split at h <;> cases h <;> simp_all

/-- Everything a step can do, by the turn. -/
theorem step_turnOf_cases {s t : State} (h : step s = .next t) :
    (s.rst = true ∧ t = s.applyReset) ∨
      (s.rst = false ∧ ∃ a u, s.turnOf = (a, u) ∧ (∃ l, u = { s with sched := l }) ∧ agentTurn a u = .next t) := by
  rcases step_cases h with h | ⟨hr, a, u, ⟨rest, ⟨hs, rfl⟩ | ⟨hs, ha, rfl⟩⟩, ht⟩
  · exact .inl h
  · exact .inr ⟨hr, a, _, by simp [State.turnOf, hs], ⟨rest, rfl⟩, ht⟩
  · exact .inr ⟨hr, a, _, by simp [State.turnOf, hs, ha], ⟨[], by simp [← hs]⟩, ht⟩

/-- The command port's decoder yields commands only, never frames. -/
theorem decode_isCommand {w : CmdWord} {i : Instr} (h : decode w = .ok i) :
    needsConfigured i = true ∨ ∃ n, i = .configure n := by
  unfold decode at h
  repeat' split at h
  all_goals cases h
  all_goals simp [needsConfigured]

/-- A run of one more step. -/
theorem run_succ {s t : State} (k : Nat) (h : step s = .next t) :
    Sys2Proof.core.run (k + 1) s = Sys2Proof.core.run k t := by
  have h' : Sys2Proof.core.step s = .next t := h
  simp only [Host.Core.run, h']

/-- Runs compose. -/
theorem run_add {s t : State} (j k : Nat) (h : Sys2Proof.core.run j s = .next t) :
    Sys2Proof.core.run (j + k) s = Sys2Proof.core.run k t := by
  induction j generalizing s with
  | zero => cases h; rw [Nat.zero_add]
  | succ j ih =>
    rw [Nat.succ_add]
    cases hs : Sys2Proof.core.step s with
    | next u => rw [run_succ _ hs] at h ⊢; exact ih h
    | fault r => simp only [Host.Core.run, hs] at h; cases h
    | refused r => simp only [Host.Core.run, hs] at h; cases h

/-! ## Composition -/

/-- A gate run over two lists is the run over the second from where the first ends. -/
theorem gateRun_append (n : Nat) (g : Gate) (xs ys : List MicroOp) :
    gateRun n g (xs ++ ys) = (gateRun n g xs).bind fun g' => gateRun n g' ys := by
  induction xs generalizing g with
  | nil => rfl
  | cons x xs ih =>
    simp only [List.cons_append, gateRun]
    cases gateOp n g x with
    | none => rfl
    | some g' => exact ih g'

/-- `k` sends inside a transaction. -/
theorem gateRun_sends (n k : Nat) (fs : List Frame) :
    gateRun n (.opened k) (fs.map MicroOp.send) = some (.opened (k + fs.length)) := by
  induction fs generalizing k with
  | nil => rfl
  | cons f fs ih => simp only [List.map_cons, gateRun, gateOp, ih, List.length_cons]; congr 2; omega

/-- A transaction of `n` frames goes from closed to closed (R109, R110). -/
theorem gateRun_txn (n : Nat) (fs : List Frame) (h : fs.length = n) :
    gateRun n .closed (txn fs) = some .closed := by
  simp [txn, gateRun, gateOp, gateRun_append, gateRun_sends, h]

/-- One more micro-operation. -/
theorem gateRun_take_succ {n i : Nat} {prog : List MicroOp} {op : MicroOp} {g : Gate} (hop : prog[i]? = some op)
    (h : gateRun n .closed (prog.take i) = some g) :
    gateRun n .closed (prog.take (i + 1)) = gateOp n g op := by
  rw [List.take_add_one, gateRun_append, h]
  simp only [hop, Option.toList_some, Option.bind_some, gateRun]
  cases gateOp n g op <;> rfl

/-- In a micro-program that ends closed, every prefix's gate allows the next micro-operation. -/
theorem gateOp_isSome {n i : Nat} {prog : List MicroOp} {op : MicroOp} {g : Gate} (hop : prog[i]? = some op)
    (h : gateRun n .closed (prog.take i) = some g) (hall : gateRun n .closed prog = some .closed) :
    ∃ g', gateOp n g op = some g' := by
  rw [← List.take_append_drop (i + 1) prog, gateRun_append, gateRun_take_succ hop h] at hall
  cases hg : gateOp n g op with
  | none => simp [hg] at hall
  | some g' => exact ⟨g', rfl⟩

/-- A bus run over two traces is the run over the second from the level the first ends at. -/
theorem busRun_append (l : Bool) (xs ys : List Event) :
    busRun l (xs ++ ys) = (busRun l xs).bind fun l' => busRun l' ys := by
  induction xs generalizing l with
  | nil => rfl
  | cons x xs ih =>
    simp only [List.cons_append, busRun]
    cases busStep l x with
    | none => rfl
    | some l' => exact ih l'

/-! ## The invariant by phase -/

theorem State.Inv.idle {s : State} (h : s.Inv) (hp : s.phase = .idle) :
    s.pend = none ∧ s.fault = .none ∧ s.quiet := by
  have := h.phaseOk; simpa [State.phaseInv, hp] using this

theorem State.Inv.collect {s : State} (h : s.Inv) (hp : s.phase = .collect) :
    s.fault = .none ∧ s.configured = true ∧ s.quiet ∧ ∃ p, s.pend = some p ∧ pendOk p := by
  have := h.phaseOk; simpa only [State.phaseInv, hp] using this

theorem State.Inv.exec {s : State} (h : s.Inv) (hp : s.phase = .exec) :
    s.pend = none ∧ s.fault = .none ∧ s.configured = true ∧ s.execOk = true := by
  have := h.phaseOk; simpa only [State.phaseInv, hp] using this

theorem State.Inv.faulted {s : State} (h : s.Inv) (hp : s.phase = .faulted) :
    s.pend = none ∧ s.fault ≠ .none ∧ s.quiet := by
  have := h.phaseOk; simpa only [State.phaseInv, hp] using this

/-- What `execOk` says. -/
theorem execOk_iff (s : State) : s.execOk = true ↔
    s.mpc < s.mprog.length ∧
      (∃ g, gateRun s.N .closed (s.mprog.take s.mpc) = some g ∧ s.cs = decide (g = Gate.closed)) ∧
      gateRun s.N .closed s.mprog = some .closed := by
  simp only [State.execOk, Bool.and_eq_true, decide_eq_true_eq]
  cases gateRun s.N .closed (s.mprog.take s.mpc) <;> simp [and_assoc]

/-- In IDLE, completion writes RESULT and nothing else. -/
theorem complete_idle {s : State} (h : s.Inv) (hp : s.phase = .idle) (r : Result) :
    s.complete r = { s with result := r } := by
  obtain ⟨h1, -, h3, h4, -⟩ := h.idle hp
  simp only [State.complete, ← hp, ← h3, ← h4, ← h1]

end Sys2Proof.Machine
end

