-- ==== Sys2Proof/Tests/Slice0.lean ====
section
/-!
SUPPORT. The model's own tests: ill-formed terms refused, every constructor's decoding from a word written out from the
spec's encoding, one small test or two for each instruction and micro-operation with results from spec/95_test_vectors.md,
and a witness for the hypotheses of every statement.
-/

namespace Sys2Proof.Tests

open Sys2Proof Sys2Proof.Machine

set_option maxRecDepth 8000

/-! ## WellFormed: one ill-formed term for each check -/

theorem test_wf_configure : (Instr.configure (2 ^ 24)).wellFormed = false := by decide
theorem test_wf_writeRegister : (Instr.writeRegister (2 ^ 24) 0#16).wellFormed = false := by decide
theorem test_wf_replicate_offset : (Instr.updateBufferReplicate (2 ^ 24) 1 0#8).wellFormed = false := by decide
theorem test_wf_replicate_length : (Instr.updateBufferReplicate 0 (2 ^ 24) 0#8).wellFormed = false := by decide
theorem test_wf_sequence_offset : (Instr.updateBufferSequence (2 ^ 24) 1).wellFormed = false := by decide
theorem test_wf_sequence_length : (Instr.updateBufferSequence 0 (2 ^ 24)).wellFormed = false := by decide
theorem test_wf_copy_count : (AsmLine.copy 0 2 [1#8]).wellFormed = false := by decide
theorem test_wf_largest : (Instr.configure (2 ^ 24 - 1)).wellFormed = true := by decide

/-! ## Decoding: words written out field by field from R71, R72, R76 and R80 -/

-- OP 1, M 0, RSV 0, A = 3, low 0 (ENC-1)
theorem test_decode_configure : decode 0x1000000300000000#64 = .ok (.configure 3) := by rfl
-- OP 2, everything else 0
theorem test_decode_teardown : decode 0x2000000000000000#64 = .ok .teardown := by rfl
-- OP 3, A = 1, F = 0x0A0F (ENC-2)
theorem test_decode_writeRegister : decode 0x3000000100000A0F#64 = .ok (.writeRegister 1 0x0A0F#16) := by rfl
-- OP 4, F = 0x0C01 (WA-1)
theorem test_decode_writeAll : decode 0x4000000000000C01#64 = .ok (.writeAllRegisters 0x0C01#16) := by rfl
-- OP 5, M 0, A = 3, L = 2, V = 0xFF (UB-10)
theorem test_decode_replicate : decode 0x50000003000002FF#64 = .ok (.updateBufferReplicate 3 2 0xFF#8) := by rfl
-- OP 5, M 1, A = 0, L = 16, V = 0 (ENC-7)
theorem test_decode_sequence : decode 0x5800000000001000#64 = .ok (.updateBufferSequence 0 16) := by rfl
-- OP 6, everything else 0
theorem test_decode_refresh : decode 0x6000000000000000#64 = .ok .refresh := by rfl
theorem test_decode_noop : decodeFrame 0x0000#16 = .ok (.frameNoop 0#4 0#8) := by rfl
theorem test_decode_digit0 : decodeFrame 0xF10A#16 = .ok (.frameDigit0 0xF#4 0x0A#8) := by rfl
theorem test_decode_digit1 : decodeFrame 0x0211#16 = .ok (.frameDigit1 0#4 0x11#8) := by rfl
theorem test_decode_digit2 : decodeFrame 0x0312#16 = .ok (.frameDigit2 0#4 0x12#8) := by rfl
theorem test_decode_digit3 : decodeFrame 0x045A#16 = .ok (.frameDigit3 0#4 0x5A#8) := by rfl
theorem test_decode_digit4 : decodeFrame 0x0514#16 = .ok (.frameDigit4 0#4 0x14#8) := by rfl
theorem test_decode_digit5 : decodeFrame 0x0615#16 = .ok (.frameDigit5 0#4 0x15#8) := by rfl
theorem test_decode_digit6 : decodeFrame 0x0716#16 = .ok (.frameDigit6 0#4 0x16#8) := by rfl
theorem test_decode_digit7 : decodeFrame 0x0827#16 = .ok (.frameDigit7 0#4 0x27#8) := by rfl
theorem test_decode_decodeMode : decodeFrame 0x0900#16 = .ok (.frameDecodeMode 0#4 0x00#8) := by rfl
theorem test_decode_intensity : decodeFrame 0x0A0F#16 = .ok (.frameIntensity 0#4 0x0F#8) := by rfl
theorem test_decode_scanLimit : decodeFrame 0x0B07#16 = .ok (.frameScanLimit 0#4 0x07#8) := by rfl
theorem test_decode_shutdown : decodeFrame 0x0C01#16 = .ok (.frameShutdown 0#4 0x01#8) := by rfl
theorem test_decode_displayTest : decodeFrame 0x0F00#16 = .ok (.frameDisplayTest 0#4 0x00#8) := by rfl
theorem test_decode_unmapped : decodeFrame 0x0D01#16 = .error .unmappedRegister := by rfl
-- ENC-3, 4, 5, 6, 9, 10, 11
theorem test_illegal_op0 : decode 0x0000000000000000#64 = .error .reservedOpcode := by rfl
theorem test_illegal_refresh_low : decode 0x6000000000000001#64 = .error .zeroField := by rfl
theorem test_illegal_rsv : decode 0x1100000000000000#64 = .error .reservedField := by rfl
theorem test_illegal_mode : decode 0x4800000000000C01#64 = .error .modeBit := by rfl
theorem test_illegal_opF : decode 0xF000000000000000#64 = .error .reservedOpcode := by rfl
theorem test_illegal_writeAll_a : decode 0x4000000100000C01#64 = .error .zeroField := by rfl
theorem test_illegal_sequence_v : decode 0x5800000000000101#64 = .error .sequenceByte := by rfl
-- UB-8: the words of `copy 0, 9, [1..9]`
theorem test_assemble_copy :
    (AsmLine.copy 0 9 [1#8, 2#8, 3#8, 4#8, 5#8, 6#8, 7#8, 8#8, 9#8]).words =
      [0x5800000000000900#64, 0x0102030405060708#64, 0x0900000000000000#64] := by decide
-- P2: `write_all 0x0C01` written as the pseudo-instruction `shutdown 1`
theorem test_assemble_shutdown : (AsmLine.shutdown 1#8).words = [0x4000000000000C01#64] := by decide
-- The line `write_reg 1, (0x0A, 0x0F)` read from text (ENC-2), and a `copy` whose list is not L bytes long
theorem test_assemble_text : assemble "write_reg 1, (0x0A, 0x0F)" = some [0x3000000100000A0F#64] := by decide
-- The model's choice of log 21: a comma at the end of the list
theorem test_assemble_last_comma : assemble "copy 0, 1, [1,]" = assemble "copy 0, 1, [1]" ∧
    (assemble "copy 0, 1, [1]").isSome = true := by decide
theorem test_assemble_refuses : assemble "copy 0, 2, [1]" = none := by decide
theorem test_asm_text : (AsmLine.fill 3 2 255#8).text = "fill 3, 2, 255" := by rfl

/-! ## Small states -/

/-- A chip with every register 0. -/
def chip0 : Chip := { shift := 0#16, regs := Vector.replicate 15 0#8 }

/-- A reset engine in front of a chain of `n` such chips. -/
def fresh (n : Nat) : State := { State.reset with chips := List.replicate n chip0 }

/-- An idle engine configured for a matching chain of `n` chips, the framebuffer zero. -/
def ready (n : Nat) : State :=
  { fresh n with configured := true, N := n, fb := fbWriteRun [] 0 (List.replicate (8 * n) 0#8) }

/-- The engine in EXEC at `mpc` of a micro-program. -/
def running (n : Nat) (prog : List MicroOp) (pc : Nat) (level : Bool) : State :=
  { ready n with phase := .exec, mprog := prog, mpc := pc, cs := level,
                 trace := if level then [] else [.selLow] }

/-- The next state of an outcome. -/
def nextOf (o : Host.Outcome State Fault Refusal) : Option State :=
  match o with
  | .next s => some s
  | .fault _ => none
  | .refused _ => none

/-- The words presented one after the other, `k` steps of the default turns. -/
def after (s : State) (ws : List CmdWord) (k : Nat) : Option State :=
  nextOf (Sys2Proof.core.run k { s with host := ws.map .word })

/-! ## Instructions (95_test_vectors.md) -/

-- CF-1, S4: `configure 0` gives N = 1, STATUS BUSY and CONFIGURED with CHAIN_LEN 1 while it runs
theorem test_configure_zero : (nextOf (exec (.configure 0) (fresh 1))).map (fun s => (s.N, s.status, s.fb.length)) =
    some (1, 0x00000103#32, 8) := by decide
-- CF-3: beyond a capacity of 4
theorem test_configure_beyond :
    (nextOf (exec (.configure 5) { fresh 4 with params := { chainLenMax := 4, queueDepth := 1 } })).map
      (fun s => (s.status, s.trace)) = some (0x00000008#32, []) := by decide
-- TD-1
theorem test_teardown : (nextOf (exec .teardown (ready 2))).map (fun s => (s.status, s.fb)) =
    some (0x00000000#32, []) := by decide
-- TD-2
theorem test_teardown_unconfigured : (nextOf (exec .teardown (fresh 2))).map (fun s => s.status) =
    some 0x00000010#32 := by decide
-- WR-1
theorem test_writeRegister_first : (nextOf (exec (.writeRegister 0 0x0A0F#16) (ready 3))).map (fun s => s.mprog) =
    some [.beginTxn, .send 0x0A0F#16, .send 0#16, .send 0#16, .endTxn] := by decide
-- WR-4
theorem test_writeRegister_beyond : (nextOf (exec (.writeRegister 3 0x0A0F#16) (ready 3))).map
    (fun s => (s.status, s.mprog)) = some (0x00000306#32, []) := by decide
-- WA-1
theorem test_writeAll : (nextOf (exec (.writeAllRegisters 0x0C01#16) (ready 2))).map (fun s => s.mprog) =
    some [.beginTxn, .send 0x0C01#16, .send 0x0C01#16, .endTxn] := by decide
-- UB-2, the last offset
theorem test_replicate_last : (nextOf (exec (.updateBufferReplicate 7 1 0x11#8) (ready 1))).map
    (fun s => (s.status, fbLookup s.fb 7, fbLookup s.fb 6)) = some (0x00000102#32, some 0x11#8, some 0#8) := by decide
-- UB-6: no wrap
theorem test_replicate_no_wrap : (nextOf (exec (.updateBufferReplicate 0xFFFFFF 0xFFFFFF 0#8) (ready 1))).map
    (fun s => s.status) = some 0x00000106#32 := by decide
-- S3: the header collects one word although the run is invalid, and the payload is consumed
theorem test_sequence_out_of_range : (after (ready 1) [0x5800000600000300#64, 0xAABBCC0000000000#64] 2).map
    (fun s => (s.status, s.fb == (ready 1).fb, s.host)) = some (0x00000106#32, true, []) := by decide
-- UB-7: N = 2, crossing a chip boundary
theorem test_sequence_crosses_chips : (after (ready 2) [0x5800000600000400#64, 0x0102030400000000#64] 2).map
    (fun s => (s.status, fbLookup s.fb 6, fbLookup s.fb 9, fbLookup s.fb 10)) =
      some (0x00000202#32, some 0x01#8, some 0x04#8, some 0#8) := by decide
-- RF-4: 48 micro-operations at N = 4
theorem test_refresh_count : (nextOf (exec .refresh (ready 4))).map (fun s => s.mprog.length) = some 48 := by decide
-- S1: the fourth transaction of a refresh at N = 1 with FB[3] = 0x5A
theorem test_refresh_row3 : (nextOf (exec .refresh { ready 1 with fb := fbWrite (ready 1).fb 3 0x5A#8 })).map
    (fun s => (s.mprog.drop 9).take 3) = some [.beginTxn, .send 0x045A#16, .endTxn] := by decide
-- FT-2: decode before state
theorem test_illegal_unconfigured : (after (fresh 1) [0x7000000000000000#64] 1).map (fun s => s.status) =
    some 0x00000030#32 := by decide
-- CF-5
theorem test_reconfigure : (nextOf (exec (.configure 1) (ready 1))).map (fun s => s.status) =
    some 0x00000122#32 := by decide

/-! ## Frames: the chip at the latch position takes them -/

theorem test_frame_noop : (nextOf (exec (.frameNoop 0#4 0x12#8) (ready 1))).map (fun s => s.chips) =
    some [chip0] := by decide
theorem test_frame_digit0 : (nextOf (exec (.frameDigit0 0xF#4 0x0A#8) (ready 1))).map (fun s => s.chipReg 1 1#4) =
    some (some 0x0A#8) := by decide
theorem test_frame_digit1 : (nextOf (exec (.frameDigit1 0#4 0x11#8) (ready 1))).map (fun s => s.chipReg 1 2#4) =
    some (some 0x11#8) := by decide
theorem test_frame_digit2 : (nextOf (exec (.frameDigit2 0#4 0x12#8) (ready 1))).map (fun s => s.chipReg 1 3#4) =
    some (some 0x12#8) := by decide
theorem test_frame_digit3 : (nextOf (exec (.frameDigit3 0#4 0x5A#8) (ready 1))).map (fun s => s.chipReg 1 4#4) =
    some (some 0x5A#8) := by decide
theorem test_frame_digit4 : (nextOf (exec (.frameDigit4 0#4 0x14#8) (ready 1))).map (fun s => s.chipReg 1 5#4) =
    some (some 0x14#8) := by decide
theorem test_frame_digit5 : (nextOf (exec (.frameDigit5 0#4 0x15#8) (ready 1))).map (fun s => s.chipReg 1 6#4) =
    some (some 0x15#8) := by decide
theorem test_frame_digit6 : (nextOf (exec (.frameDigit6 0#4 0x16#8) (ready 1))).map (fun s => s.chipReg 1 7#4) =
    some (some 0x16#8) := by decide
theorem test_frame_digit7 : (nextOf (exec (.frameDigit7 0#4 0x17#8) (ready 1))).map (fun s => s.chipReg 1 8#4) =
    some (some 0x17#8) := by decide
theorem test_frame_decodeMode : (nextOf (exec (.frameDecodeMode 0#4 0x01#8) (ready 1))).map
    (fun s => s.chipReg 1 9#4) = some (some 0x01#8) := by decide
theorem test_frame_intensity : (nextOf (exec (.frameIntensity 0#4 0x0F#8) (ready 1))).map
    (fun s => s.chipReg 1 0xA#4) = some (some 0x0F#8) := by decide
theorem test_frame_scanLimit : (nextOf (exec (.frameScanLimit 0#4 0x07#8) (ready 1))).map
    (fun s => s.chipReg 1 0xB#4) = some (some 0x07#8) := by decide
theorem test_frame_shutdown : (nextOf (exec (.frameShutdown 0#4 0x01#8) (ready 1))).map
    (fun s => s.chipReg 1 0xC#4) = some (some 0x01#8) := by decide
theorem test_frame_displayTest : (nextOf (exec (.frameDisplayTest 0#4 0x01#8) (ready 1))).map
    (fun s => s.chipReg 1 0xF#4) = some (some 0x01#8) := by decide

/-! ## Micro-operations, transport and reset -/

-- TG-1: BEGIN holds while busy
theorem test_begin_holds : (nextOf (engineTurn { running 1 [.beginTxn, .send 0#16, .endTxn] 0 true with
    queue := [0x0100#16] })).map (fun s => (s.mpc, s.cs, s.trace)) = some (0, true, []) := by decide
-- TG-2: SEND holds with the queue full at QDEPTH = 1
theorem test_send_holds : (nextOf (engineTurn { running 1 [.beginTxn, .send 0x0100#16, .endTxn] 1 false with
    queue := [0x0100#16] })).map (fun s => (s.mpc, s.queue)) = some (1, [0x0100#16]) := by decide
-- TG-4: the latch order of three frames
theorem test_latch_order :
    ([0x01AA#16, 0x02BB#16, 0x03CC#16].foldl (fun c f => shiftIn f c) [chip0, chip0, chip0]).map Chip.shift =
      [0x03CC#16, 0x02BB#16, 0x01AA#16] := by decide
-- S2: END of `write_reg 1, 0x0A0F` at N = 3, the three frames shifted
theorem test_end_latches : (nextOf (engineTurn { running 3
      [.beginTxn, .send 0#16, .send 0x0A0F#16, .send 0#16, .endTxn] 4 false with
        chips := [chip0, { chip0 with shift := 0x0A0F#16 }, chip0] })).map
      (fun s => (s.status, s.cs, s.chipReg 1 0xA#4, s.chipReg 2 0xA#4, s.chipReg 3 0xA#4)) =
    some (0x00000302#32, true, some 0#8, some 0x0F#8, some 0#8) := by decide
-- TG-5
theorem test_deselect : (nextOf (engineTurn (running 1 (initProgram 1) 0 true))).map
    (fun s => (s.mpc, s.cs, s.trace)) = some (1, true, []) := by decide
-- RS-2: reset inside a transaction
theorem test_reset_in_transaction : (nextOf (step { running 1 [.beginTxn, .send 0#16, .endTxn] 1 false with
    rst := true })).map (fun s => (s.status, s.cs, s.trace)) = some (0x00000000#32, true, [.selLow, .selHigh]) := by
  decide
theorem test_fetch_command : (nextOf (step (State.reset.withFetchWord 64 0x1000000100000000))).map (fun s => s.N) =
    some 1 := by decide
theorem test_fetch_frame : (nextOf (step (State.reset.withFetchWord 16 0x0A0F))).map (fun s => s.chipReg 1 0xA#4) =
    some (some 0x0F#8) := by decide

/-! ## Witnesses: the hypotheses of each statement can be met, clause by clause -/

theorem test_fresh_inv : (fresh 2).Inv where
  config := by decide
  fbOk := by decide
  phaseOk := by show (fresh 2).pend = none ∧ _; decide
  bus := by decide
  depth := by decide

theorem test_ready_inv : (ready 2).Inv where
  config := by decide
  fbOk := by decide
  phaseOk := by show (ready 2).pend = none ∧ _; decide
  bus := by decide
  depth := by decide

theorem test_ready1_inv : (ready 1).Inv where
  config := by decide
  fbOk := by decide
  phaseOk := by show (ready 1).pend = none ∧ _; decide
  bus := by decide
  depth := by decide

/-- A transaction of two frames. -/
def twoFrames : List MicroOp := [.beginTxn, .send 0x0A0F#16, .send 0x0000#16, .endTxn]

theorem test_running_inv : (running 2 twoFrames 1 false).Inv where
  config := by decide
  fbOk := by decide
  phaseOk := by show (running 2 twoFrames 1 false).pend = none ∧ _; decide
  bus := by decide
  depth := by decide

/-- Collecting the only payload word of `copy c, l`. -/
def collecting (c l : Nat) : State :=
  { ready 2 with phase := .collect, pend := some { offset := c, length := l, received := [], remaining := 1 } }

theorem test_collecting_inv : (collecting 6 4).Inv where
  config := by decide
  fbOk := by decide
  phaseOk := by exact ⟨rfl, rfl, ⟨rfl, rfl, rfl⟩, _, rfl, by decide⟩
  bus := by decide
  depth := by decide

theorem test_collecting_invalid_inv : (collecting 15 2).Inv where
  config := by decide
  fbOk := by decide
  phaseOk := by exact ⟨rfl, rfl, ⟨rfl, rfl, rfl⟩, _, rfl, by decide⟩
  bus := by decide
  depth := by decide

/-- The turn the schedule's one entry gives, from the state without it. -/
theorem test_turnOf (s : State) (a : Agent) : ({ s with sched := [a] } : State).turnOf = (a, { s with sched := [] }) := rfl

-- DecodeOfEncodeIsIdentity, EncodeOfDecodeIsIdentity
theorem test_hyp_encode : (Instr.updateBufferSequence (2 ^ 24 - 1) (2 ^ 24 - 1)).wellFormed = true ∧
    decodeWord (.command 0x58FFFFFFFFFFFF00#64) = .ok (.updateBufferSequence (2 ^ 24 - 1) (2 ^ 24 - 1)) := ⟨by decide, rfl⟩
-- IllegalHeadersAreThoseOfR77, second and third part
theorem test_hyp_illegal : ({ fresh 1 with host := [.word 0x7000000000000000#64] } : State).turnOf =
      (.host, { fresh 1 with host := [.word 0x7000000000000000#64] }) ∧
    decode 0x7000000000000000#64 = .error .reservedOpcode ∧ (fresh 1).phase = .idle ∧ (fresh 1).rst = false :=
  ⟨by decide, rfl, rfl, rfl⟩
theorem test_hyp_collect_turn : ({ collecting 6 4 with host := [.word 0#64] } : State).turnOf =
      (.host, { collecting 6 4 with host := [.word 0#64] }) ∧ (collecting 6 4).phase = .collect := by decide
-- FramesOutsideTheRegisterMap
theorem test_hyp_frames_outside : decodeFrame 0xFE00#16 = .error .unmappedRegister ∧
    (0xFE00#16).extractLsb' 8 4 = 0xE#4 := ⟨rfl, by decide⟩
-- StatusReadHasNoSideEffect, in EXEC
theorem test_hyp_read_status : ({ running 2 twoFrames 1 false with host := [.readStatus], sched := [.host] } : State).turnOf =
    (.host, { running 2 twoFrames 1 false with host := [.readStatus] }) := by decide
-- StepRunsTheDecodedInstruction: the header, and the frame of a chain of one
theorem test_hyp_step_header : ({ ready 1 with host := [.word 0x2000000000000000#64] } : State).turnOf =
      (.host, { ready 1 with host := [.word 0x2000000000000000#64] }) ∧
    decode 0x2000000000000000#64 = .ok .teardown ∧ (ready 1).phase = .idle := ⟨by decide, rfl, rfl⟩
/-- At the END of a transaction whose one frame is in the chain. -/
def atEnd : State :=
  { running 1 [.beginTxn, .send 0x0A0F#16, .endTxn] 2 false with chips := [{ chip0 with shift := 0x0A0F#16 }] }
theorem test_hyp_step_frame : atEnd.turnOf = (.engine, atEnd) ∧ atEnd.phase = .exec ∧
    atEnd.mprog[atEnd.mpc]? = some .endTxn ∧ atEnd.txBusy = false ∧ atEnd.N = 1 ∧ atEnd.rst = false ∧
    atEnd.chips = [{ chip0 with shift := 0x0A0F#16 }] := by decide
theorem test_hyp_latchChip : atEnd.chipAt 1 = some { chip0 with shift := 0x0A0F#16 } ∧
    decodeFrame 0x0A0F#16 = .ok (.frameIntensity 0#4 0x0F#8) := ⟨by decide, rfl⟩
-- NoWordAcceptedWhileBusyOrFaulted
theorem test_hyp_busy : ({ running 2 twoFrames 1 false with
      host := [.word 0#64], sched := [.host] } : State).turnOf =
    (.host, { running 2 twoFrames 1 false with host := [.word 0#64] }) ∧
    (running 2 twoFrames 1 false).phase = .exec := by decide
theorem test_hyp_faulted : ({ (fresh 1).raiseFault .illegalCommand with host := [.word 0#64] } : State).turnOf =
    (.host, { (fresh 1).raiseFault .illegalCommand with host := [.word 0#64] }) ∧
    ((fresh 1).raiseFault .illegalCommand).phase = .faulted ∧ needsConfigured .refresh = true := by decide
-- ConfigureConfigures at 0 and at the capacity, ConfigureZeroIsConfigureOne
theorem test_hyp_configure : (fresh 2).phase = .idle ∧ (fresh 2).configured = false ∧ 1 ≤ (fresh 2).params.chainLenMax ∧
    2 ^ 21 ≤ (fresh 2).params.chainLenMax := by decide
-- ConfigureBeyondCapacity: with test_fresh_inv, the first length beyond, and a length within for the later CONFIGURE
theorem test_hyp_beyond : (fresh 2).params.chainLenMax < 2 ^ 21 + 1 ∧ 1 ≤ 1 ∧ 1 ≤ (fresh 2).params.chainLenMax ∧
    needsConfigured .teardown = true := by decide
-- ReconfigureFaults, TeardownReleases, the commands of a configured engine
theorem test_hyp_configured : (ready 2).phase = .idle ∧ (ready 2).configured = true ∧ 3 ≤ (ready 2).params.chainLenMax ∧
    (ready 2).N = 2 := by decide
theorem test_hyp_teardown_next : (nextOf (exec .teardown (ready 2))).isSome = true := by decide
-- UnconfiguredUseFaults
theorem test_hyp_unconfigured : (fresh 2).phase = .idle ∧ (fresh 2).configured = false ∧
    needsConfigured (.writeRegister 5 0x0A0F#16) = true ∧ needsConfigured (.writeAllRegisters 0#16) = true ∧
    needsConfigured (.updateBufferReplicate 0 1 0#8) = true ∧ needsConfigured (.updateBufferSequence 0 16) = true ∧
    needsConfigured .refresh = true ∧ needsConfigured .teardown = true := by decide
-- The step-invariant statements: a state of the invariant with a next state that stays configured (test_running_inv)
theorem test_hyp_step : (nextOf (step (running 2 twoFrames 1 false))).map (fun s => (s.configured, s.N, s.mpc)) =
    some (true, 2, 2) := by decide
-- WriteRegisterTransaction: both ends of the range
theorem test_hyp_writeRegister : 0 < (ready 2).N ∧ 1 < (ready 2).N ∧ ¬ 2 < (ready 2).N ∧ (ready 2).N ≤ 2 := by decide
-- AddressedAndBroadcastWritesCompared: N = 1 (test_ready1_inv) and N ≥ 2 (test_ready_inv)
theorem test_hyp_compare : (ready 1).N = 1 ∧ 2 ≤ (ready 2).N ∧ (0x0C01#16 : Frame) ≠ 0x0000#16 ∧
    (ready 1).phase = .idle ∧ (ready 1).configured = true := by decide
-- ReplicateWritesTheRun, WritableOffsetsAreThoseBelowEightN, OffsetErrorsHaveNoOtherEffect: the bounds
theorem test_hyp_runs : (0 < 1 ∧ 15 + 1 - 1 < 8 * (ready 2).N) ∧ (0 < 16 ∧ 0 + 16 - 1 < 8 * (ready 2).N) ∧
    15 < 8 * (ready 2).N ∧ 8 * (ready 2).N ≤ 16 ∧ ¬ (0 < 2 ∧ 15 + 2 - 1 < 8 * (ready 2).N) ∧
    ¬ (0 < 0 ∧ 0 + 0 - 1 < 8 * (ready 2).N) := by decide
-- PayloadWordJoinsThePending
theorem test_hyp_payload_joins : ({ collecting 0 9 with
      pend := some { offset := 0, length := 9, received := [], remaining := 2 }, host := [.word 0#64] } : State).turnOf =
    (.host, { collecting 0 9 with
      pend := some { offset := 0, length := 9, received := [], remaining := 2 }, host := [.word 0#64] }) := by decide
-- LastPayloadWordCompletes: a valid run and an invalid one, with test_collecting_inv and test_collecting_invalid_inv
theorem test_hyp_last_payload : 6 + 4 - 1 < 8 * (collecting 6 4).N ∧ ¬ 15 + 2 - 1 < 8 * (collecting 15 2).N := by decide
-- SequenceCommandCopiesItsBytes
theorem test_hyp_sequence : ∃ s : State, s.Inv ∧ s.rst = false ∧ s.phase = .idle ∧ s.configured = true ∧
    s.host = (AsmLine.copy 6 4 [1#8, 2#8, 3#8, 4#8]).words.map HostAction.word ++ [] ∧
    s.sched = List.replicate (1 + payloadWords 4) Agent.host ++ [] :=
  ⟨{ ready 2 with host := (AsmLine.copy 6 4 [1#8, 2#8, 3#8, 4#8]).words.map HostAction.word ++ []
                  sched := List.replicate (1 + payloadWords 4) Agent.host ++ [] },
    ⟨test_ready_inv.1, test_ready_inv.2, test_ready_inv.3, test_ready_inv.4, test_ready_inv.5⟩, rfl, rfl, rfl, rfl, rfl⟩
-- UpdatesTouchNoBus: each of the three alternatives
theorem test_hyp_updates : (nextOf (exec (.updateBufferReplicate 0 1 0#8) (ready 2))).isSome = true ∧
    (nextOf (exec (.updateBufferSequence 0 1) (ready 2))).isSome = true ∧
    (nextOf ((collecting 6 4).acceptPayload 0#64)).isSome = true := by decide
-- RefreshCountsAndFrameOrder: the last frame
theorem test_hyp_refresh_order : 15 < 8 * (ready 2).N := by decide
-- BeginDrivesSelectLow, SendEnqueuesTheFrame, DeselectMakesNoEvent: held and not held
theorem test_hyp_begin : (running 2 twoFrames 0 true).turnOf = (.engine, running 2 twoFrames 0 true) ∧
    (running 2 twoFrames 0 true).mprog[0]? = some .beginTxn ∧ (running 2 twoFrames 0 true).txBusy = false ∧
    ({ running 2 twoFrames 0 true with queue := [0#16] } : State).txBusy = true ∧ 0 + 1 < twoFrames.length := by decide
theorem test_hyp_send : (running 2 twoFrames 1 false).turnOf = (.engine, running 2 twoFrames 1 false) ∧
    (running 2 twoFrames 1 false).mprog[1]? = some (.send 0x0A0F#16) ∧ (running 2 twoFrames 1 false).txFull = false ∧
    ({ running 2 twoFrames 1 false with queue := [0#16] } : State).txFull = true ∧ 1 + 1 < twoFrames.length := by decide
theorem test_hyp_deselect : (running 1 (initProgram 1) 0 true).turnOf = (.engine, running 1 (initProgram 1) 0 true) ∧
    (running 1 (initProgram 1) 0 true).mprog[0]? = some .deselect ∧ 0 + 1 < (initProgram 1).length := by decide
-- EndLatchesTheChain (the last micro-operation: atEnd) and EndUnderLengthMismatch (not the last)
theorem test_hyp_end : atEnd.N = atEnd.chips.length ∧ ({ atEnd with queue := [0#16] } : State).txBusy = true ∧
    frameAddr 0x0A0F#16 ≠ 0xD#4 ∧ frameAddr 0x0A0F#16 ≠ 0xE#4 := by decide
theorem test_hyp_mismatch : ({ running 1 (initProgram 1) 3 false with chips := [chip0, chip0] } : State).turnOf =
      (.engine, { running 1 (initProgram 1) 3 false with chips := [chip0, chip0] }) ∧
    (initProgram 1)[3]? = some .endTxn ∧ 3 + 1 < (initProgram 1).length ∧ (running 1 (initProgram 1) 3 false).N ≠ 2 := by
  decide
-- TransportShiftsInOrder
theorem test_hyp_transport : ({ ready 2 with queue := [1#16, 2#16], sched := [.transport] } : State).turnOf =
    (.transport, { ready 2 with queue := [1#16, 2#16] }) ∧ (ready 2).stalled = false := by decide
-- ShiftedFramesReachTheirChips
theorem test_hyp_shifted : [1#16, 2#16].length = [chip0, chip0].length ∧ 1 ≤ 2 ∧ 2 ≤ [chip0, chip0].length := by decide
-- FrameWritesItsRegister, UnmappedFrameOpensOneChip
theorem test_hyp_frame : (ready 2).chipAt (ready 2).latchPos = some chip0 := by decide
theorem test_hyp_unmapped : ({ ready 1 with chips := [{ chip0 with shift := 0x0D01#16 }] } : State).chipAt 1 =
      some { chip0 with shift := 0x0D01#16 } ∧ frameAddr 0x0D01#16 = 0xD#4 ∧ frameAddr 0x0E01#16 = 0xE#4 := by decide
-- NoopFrameChangesNothing
theorem test_hyp_noop : frameAddr 0xF012#16 = 0 := by decide
-- TransactionsHaveExactlyNFrames, GeneratedFramesAreThoseOfR98
theorem test_hyp_loaded : (nextOf (exec .refresh (ready 2))).map (fun t => (t.phase, (sends t.mprog).head?)) =
    some (.exec, some 0x0100#16) := by decide
-- SelectLineWriters, PhaseTransitions: steps that change the level and the phase
theorem test_hyp_level : (nextOf (step (running 2 twoFrames 0 true))).map (fun t => t.cs) = some false ∧
    (running 2 twoFrames 0 true).cs = true := by decide
theorem test_hyp_phase : (nextOf (step atEnd)).map (fun t => t.phase) = some .idle ∧ atEnd.phase = .exec ∧
    atEnd.rst = false := by decide
-- StalledTransportHangsTheEngine
theorem test_hyp_stalled : ({ running 2 twoFrames 1 false with stalled := true } : State).mprog[1]? =
      some (.send 0x0A0F#16) ∧ noResetLeft (running 2 twoFrames 1 false).host = true ∧
    (running 2 twoFrames 1 false).rst = false ∧ (MicroOp.send 0x0A0F#16 ≠ .deselect) := by decide
-- FaultedUntilReset, ResetWinsAndResets, HostAssertsReset
theorem test_hyp_fault_state : ((fresh 1).raiseFault .illegalCommand).phase = .faulted ∧
    ((fresh 1).raiseFault .illegalCommand).rst = false ∧
    ({ (fresh 1).raiseFault .illegalCommand with rst := true } : State).rst = true := by decide
theorem test_hyp_assert_reset : ({ running 2 twoFrames 1 false with host := [.assertReset], sched := [.host] } : State).turnOf =
    (.host, { running 2 twoFrames 1 false with host := [.assertReset] }) := by decide
-- FramebufferStaysCanonical, FramebufferWriters
theorem test_hyp_fb : fbWf (ready 2).fb = true ∧
    (nextOf (step { ready 2 with host := [.word 0x5000000000000111#64] })).map (fun t => t.fb == (ready 2).fb) =
      some false := by decide
-- CommandsComplete: with test_running_inv
theorem test_hyp_complete : (running 2 twoFrames 1 false).stalled = false ∧ (running 2 twoFrames 1 false).sched = [] ∧
    (running 2 twoFrames 1 false).phase = .exec := by decide
-- RefreshReachesTheChips, WriteRegisterReachesItsChip, WriteAllReachesEveryChip: an idle engine, a matching chain, the word
theorem test_hyp_reach (w : CmdWord) : ∃ s : State, s.Inv ∧ s.rst = false ∧ s.stalled = false ∧ s.sched = [] ∧
    s.queue = [] ∧ s.phase = .idle ∧ s.configured = true ∧ s.lengthMatches ∧ 1 < s.N ∧ s.host = [.word w] :=
  ⟨{ ready 2 with host := [.word w] },
    ⟨test_ready_inv.1, test_ready_inv.2, test_ready_inv.3, test_ready_inv.4, test_ready_inv.5⟩,
    rfl, rfl, rfl, rfl, rfl, rfl, rfl, Nat.lt_succ_self 1, rfl⟩
theorem test_hyp_reach_words : decode 0x3000000100000A0F#64 = .ok (.writeRegister 1 0x0A0F#16) ∧
    decode 0x4000000000000C01#64 = .ok (.writeAllRegisters 0x0C01#16) ∧ frameAddr 0x0A0F#16 = 0xA#4 ∧
    frameAddr 0x0C01#16 = 0xC#4 := ⟨rfl, rfl, by decide, by decide⟩

/-! ### All the hypotheses of a statement met together -/

-- ConfigureConfigures, ConfigureZeroIsConfigureOne, ConfigureBeyondCapacity, UnconfiguredUseFaults
theorem test_all_unconfigured : (fresh 2).Inv ∧ (fresh 2).phase = .idle ∧ (fresh 2).configured = false ∧
    2 ^ 21 ≤ (fresh 2).params.chainLenMax ∧ (fresh 2).params.chainLenMax < (if 2 ^ 21 + 1 = 0 then 1 else 2 ^ 21 + 1) ∧
    needsConfigured .refresh = true := ⟨test_fresh_inv, by decide⟩
-- The commands of a configured engine: one chip and more than one; a chip offset, a run and their first values beyond
theorem test_all_configured : (ready 2).Inv ∧ (ready 2).phase = .idle ∧ (ready 2).configured = true ∧
    1 < (ready 2).N ∧ (ready 2).N ≤ 2 ∧ 0 < 1 ∧ 15 + 1 - 1 < 8 * (ready 2).N ∧ 8 * (ready 2).N ≤ 16 ∧
    ¬ (0 < 1 ∧ 16 + 1 - 1 < 8 * (ready 2).N) ∧ (0x0C01#16 : Frame) ≠ 0x0000#16 := ⟨test_ready_inv, by decide⟩
theorem test_all_one_chip : (ready 1).Inv ∧ (ready 1).phase = .idle ∧ (ready 1).configured = true ∧ (ready 1).N = 1 :=
  ⟨test_ready1_inv, by decide⟩
-- LastPayloadWordCompletes: a valid run and an invalid one
theorem test_all_last_payload : ∃ u : State, u.Inv ∧ u.rst = false ∧ u.turnOf = (.host, u) ∧ u.host = [.word 0#64] ∧
    u.phase = .collect ∧ ∃ p, u.pend = some p ∧ p.remaining = 1 ∧ 0 < p.length ∧ p.offset + p.length - 1 < 8 * u.N :=
  ⟨{ collecting 6 4 with host := [.word 0#64] },
    ⟨test_collecting_inv.1, test_collecting_inv.2, test_collecting_inv.3, test_collecting_inv.4, test_collecting_inv.5⟩,
    rfl, by decide, rfl, rfl, _, rfl, rfl, by decide, by decide⟩
theorem test_all_last_payload_invalid : ∃ u : State, u.Inv ∧ u.rst = false ∧ u.turnOf = (.host, u) ∧
    u.host = [.word 0#64] ∧ u.phase = .collect ∧ ∃ p, u.pend = some p ∧ p.remaining = 1 ∧
      ¬ p.offset + p.length - 1 < 8 * u.N :=
  ⟨{ collecting 15 2 with host := [.word 0#64] },
    ⟨test_collecting_invalid_inv.1, test_collecting_invalid_inv.2, test_collecting_invalid_inv.3,
      test_collecting_invalid_inv.4, test_collecting_invalid_inv.5⟩,
    rfl, by decide, rfl, rfl, _, rfl, rfl, by decide⟩
-- PayloadWordJoinsThePending
theorem test_all_payload_joins : ∃ u : State, u.rst = false ∧ u.turnOf = (.host, u) ∧ u.host = [.word 0#64] ∧
    u.phase = .collect ∧ ∃ p, u.pend = some p ∧ 2 ≤ p.remaining :=
  ⟨{ collecting 0 9 with
      pend := some { offset := 0, length := 9, received := [], remaining := 2 }, host := [.word 0#64] },
    rfl, by decide, rfl, rfl, _, rfl, by decide⟩
-- The step-invariant statements and CommandsComplete
theorem test_all_running : (running 2 twoFrames 1 false).Inv ∧ (running 2 twoFrames 1 false).rst = false ∧
    (running 2 twoFrames 1 false).stalled = false ∧ (running 2 twoFrames 1 false).sched = [] ∧
    (running 2 twoFrames 1 false).phase = .exec ∧ (nextOf (step (running 2 twoFrames 1 false))).isSome = true :=
  ⟨test_running_inv, by decide⟩
-- StalledTransportHangsTheEngine
theorem test_all_stalled : ∃ s : State, s.rst = false ∧ noResetLeft s.host = true ∧ s.phase = .exec ∧ s.stalled = true ∧
    s.mprog[s.mpc]? = some (.send 0x0A0F#16) ∧ MicroOp.send 0x0A0F#16 ≠ .deselect :=
  ⟨{ running 2 twoFrames 1 false with stalled := true }, by decide⟩
-- EndLatchesTheChain: the last micro-operation and one that is not, and EndUnderLengthMismatch: one that is not and the
-- last, WRITE_REGISTER's and WRITE_ALL_REGISTERS's only END
theorem test_all_end : atEnd.rst = false ∧ atEnd.turnOf = (.engine, atEnd) ∧ atEnd.phase = .exec ∧
    atEnd.mprog[atEnd.mpc]? = some .endTxn ∧ atEnd.txBusy = false ∧ atEnd.N = atEnd.chips.length := by decide
theorem test_all_end_last : atEnd.mpc + 1 = atEnd.mprog.length := by decide
theorem test_all_end_more : ∃ u : State, u.rst = false ∧ u.turnOf = (.engine, u) ∧ u.phase = .exec ∧
    u.mprog[u.mpc]? = some .endTxn ∧ u.mpc + 1 ≠ u.mprog.length ∧ u.txBusy = false ∧ u.N = u.chips.length :=
  ⟨running 1 (initProgram 1) 3 false, by decide⟩
theorem test_all_mismatch_last : ∃ u : State, u.rst = false ∧ u.turnOf = (.engine, u) ∧ u.phase = .exec ∧
    u.mprog[u.mpc]? = some .endTxn ∧ u.mpc + 1 = u.mprog.length ∧ u.txBusy = false ∧ u.N ≠ u.chips.length :=
  ⟨{ atEnd with chips := [chip0, chip0] }, by decide⟩
theorem test_all_mismatch : ∃ u : State, u.rst = false ∧ u.turnOf = (.engine, u) ∧ u.phase = .exec ∧
    u.mprog[u.mpc]? = some .endTxn ∧ u.mpc + 1 < u.mprog.length ∧ u.txBusy = false ∧ u.N ≠ u.chips.length :=
  ⟨{ running 1 (initProgram 1) 3 false with chips := [chip0, chip0] }, by decide⟩

-- SequenceCommandCopiesItsBytes, an invalid run: its last offset is 16, the first beyond
theorem test_all_sequence_invalid : ∃ s : State, s.Inv ∧ s.rst = false ∧ s.phase = .idle ∧ s.configured = true ∧
    s.host = (AsmLine.copy 13 4 [1#8, 2#8, 3#8, 4#8]).words.map HostAction.word ++ [] ∧
    s.sched = List.replicate (1 + payloadWords 4) Agent.host ++ [] ∧ ¬ 13 + 4 - 1 < 8 * s.N :=
  ⟨{ ready 2 with host := (AsmLine.copy 13 4 [1#8, 2#8, 3#8, 4#8]).words.map HostAction.word ++ []
                  sched := List.replicate (1 + payloadWords 4) Agent.host ++ [] },
    ⟨test_ready_inv.1, test_ready_inv.2, test_ready_inv.3, test_ready_inv.4, test_ready_inv.5⟩,
    rfl, rfl, rfl, rfl, rfl, by decide⟩
-- ChainLengthImmutableWhileConfigured: steps from the invariant into a configured and into an unconfigured state
theorem test_all_chain_length : (nextOf (exec .teardown (ready 2))).map (fun t => (t.configured, t.N)) = some (false, 0) ∧
    (nextOf (exec (.configure 0) (fresh 2))).map (fun t => (t.configured, t.N, t.params.chainLenMax)) =
      some (true, 1, 2 ^ 21) := by decide
-- WriteRegisterReachesItsChip: a register of the map, and register address 0 (with test_hyp_reach)
theorem test_all_reach_words : decode 0x3000000100000012#64 = .ok (.writeRegister 1 0x0012#16) ∧
    frameAddr 0x0012#16 = 0 ∧ frameAddr 0x0012#16 ≠ 0xD#4 ∧ frameAddr 0x0012#16 ≠ 0xE#4 ∧
    frameAddr 0x0A0F#16 ≠ 0xD#4 ∧ frameAddr 0x0A0F#16 ≠ 0xE#4 := ⟨rfl, by decide⟩
-- ResetWinsAndResets: with the select line at 1 and at 0
theorem test_all_reset : ({ ready 2 with rst := true } : State).rst = true ∧ (ready 2).cs = true ∧
    ({ running 2 twoFrames 1 false with rst := true } : State).rst = true ∧ (running 2 twoFrames 1 false).cs = false := by
  decide

end Sys2Proof.Tests
end

section
/-!
PROOFS. The statements on the STATUS register, the chain length and the select line (10_state.md). The shared operations'
effect on these fields comes first; the chain length rests on `step_configChange`, the select line on
`engineTurn_cs_cases`.
-/

namespace Sys2Proof.Machine

/-! ## The end of a command, field by field -/

section Completion

variable (s : State) (c l : Nat) (bytes : List Byte) (prog : List MicroOp)

@[simp] theorem State.updateRun_configured : (s.updateRun c l bytes).configured = s.configured := by
  simp only [State.updateRun]; split <;> rfl

@[simp] theorem State.updateRun_N : (s.updateRun c l bytes).N = s.N := by
  simp only [State.updateRun]; split <;> rfl

@[simp] theorem State.updateRun_cs : (s.updateRun c l bytes).cs = s.cs := by
  simp only [State.updateRun]; split <;> rfl

@[simp] theorem State.updateRun_params : (s.updateRun c l bytes).params = s.params := by
  simp only [State.updateRun]; split <;> rfl

@[simp] theorem State.runProgram_configured : (s.runProgram prog).configured = s.configured := by
  simp only [State.runProgram]; split <;> rfl

@[simp] theorem State.runProgram_N : (s.runProgram prog).N = s.N := by
  simp only [State.runProgram]; split <;> rfl

@[simp] theorem State.runProgram_cs : (s.runProgram prog).cs = s.cs := by
  simp only [State.runProgram]; split <;> rfl

@[simp] theorem State.runProgram_params : (s.runProgram prog).params = s.params := by
  simp only [State.runProgram]; split <;> rfl

@[simp] theorem State.finish_configured : s.finish.configured = s.configured := by
  simp only [State.finish]; split <;> rfl

@[simp] theorem State.finish_N : s.finish.N = s.N := by
  simp only [State.finish]; split <;> rfl

@[simp] theorem State.finish_cs : s.finish.cs = s.cs := by
  simp only [State.finish]; split <;> rfl

@[simp] theorem State.finish_params : s.finish.params = s.params := by
  simp only [State.finish]; split <;> rfl

end Completion

/-! ## Reading STATUS -/

/-- Settles O10: the host's turn at a STATUS read has no case on the phase. -/
theorem statusReadHasNoSideEffect : Obligations.StatusReadHasNoSideEffect := by
  intro s u rest hr hturn hhost
  rw [step_turnOf hr hturn]
  simp only [agentTurn, hostTurn, hhost]

/-! ## The chain length (R24) -/

/-- What may become of the configuration: the parameters stay, and `configured` and `N` are kept, or an unconfigured engine
is given a length within the capacity (R121 to R123), or the engine is unconfigured with `N = 0` (R124, R230). -/
structure ConfigChange (s t : State) : Prop where
  params : t.params = s.params
  length : (t.configured = s.configured ∧ t.N = s.N) ∨
    (s.configured = false ∧ t.configured = true ∧ 1 ≤ t.N ∧ t.N ≤ s.params.chainLenMax) ∨
    (t.configured = false ∧ t.N = 0)

theorem ConfigChange.of_kept {s t : State} (hp : t.params = s.params) (hc : t.configured = s.configured) (hN : t.N = s.N) :
    ConfigChange s t := ⟨hp, .inl ⟨hc, hN⟩⟩

/-- The coherence of the configuration is kept by every such change (R11, R24). -/
theorem ConfigChange.configInv {s t : State} (h : ConfigChange s t) (hs : s.configInv) : t.configInv := by
  obtain ⟨hp, ⟨hc, hN⟩ | ⟨-, hc, hlo, hhi⟩ | ⟨hc, hN⟩⟩ := h
  · simpa only [State.configInv, hp, hc, hN] using hs
  · exact ⟨hp ▸ hs.1, by rw [if_pos hc, hp]; exact ⟨hlo, hhi⟩⟩
  · exact ⟨hp ▸ hs.1, by rw [if_neg (by simp [hc])]; exact hN⟩

/-- Between configured states such a change keeps the length. -/
theorem ConfigChange.N_eq {s t : State} (h : ConfigChange s t) (hs : s.configured = true) (ht : t.configured = true) :
    t.N = s.N := by
  obtain ⟨-, ⟨-, hN⟩ | ⟨hc, -⟩ | ⟨hc, -⟩⟩ := h
  · exact hN
  · simp [hs] at hc
  · simp [ht] at hc

/-- The range of the length and its value while unconfigured, taken apart. -/
theorem State.configInv.range {s : State} (h : s.configInv) :
    (s.configured = true → 1 ≤ s.N ∧ s.N ≤ s.params.chainLenMax) ∧ (s.configured = false → s.N = 0) :=
  ⟨fun hc => by simpa only [if_pos hc] using h.2, fun hc => by simpa [hc] using h.2⟩

/-- A normalised length is at least 1 (R122). -/
theorem one_le_normalise (n : Nat) : 1 ≤ normalise n := by
  simp only [normalise]; split <;> omega

/-! ## What the port does to the configuration and the select line -/

/-- What every word on the command port leaves: the select line as it was and an allowed change of the configuration. -/
structure PortChange (s t : State) : Prop where
  cs : t.cs = s.cs
  config : ConfigChange s t

theorem PortChange.of_kept {s t : State} (hcs : t.cs = s.cs) (hp : t.params = s.params)
    (hc : t.configured = s.configured) (hN : t.N = s.N) : PortChange s t := ⟨hcs, .of_kept hp hc hN⟩

theorem PortChange.refl (s : State) : PortChange s s := .of_kept rfl rfl rfl rfl

theorem PortChange.raiseFault (s : State) (c : FaultCode) : PortChange s (s.raiseFault c) := .of_kept rfl rfl rfl rfl

theorem PortChange.complete (s : State) (r : Result) : PortChange s (s.complete r) := .of_kept rfl rfl rfl rfl

theorem PortChange.runProgram (s : State) (prog : List MicroOp) : PortChange s (s.runProgram prog) :=
  .of_kept (by simp) (by simp) (by simp) (by simp)

theorem PortChange.updateRun (s : State) (c l : Nat) (bytes : List Byte) : PortChange s (s.updateRun c l bytes) :=
  .of_kept (by simp) (by simp) (by simp) (by simp)

/-- The acceptance checks of a configured-only command add nothing to what its own part does. -/
theorem PortChange.of_needConfigured {s t k : State} (h : s.needConfigured k = .next t) (hk : PortChange s k) :
    PortChange s t := by
  obtain ⟨-, -, rfl⟩ | ⟨-, -, rfl⟩ | ⟨-, rfl⟩ := needConfigured_cases h
  · exact hk
  · exact .raiseFault s _
  · exact .refl t

/-- CONFIGURE's own part runs on an unconfigured engine only (R126). -/
theorem PortChange.of_needUnconfigured {s t k : State} (h : s.needUnconfigured k = .next t)
    (hk : s.configured = false → PortChange s k) : PortChange s t := by
  obtain ⟨-, hc, rfl⟩ | ⟨-, -, rfl⟩ | ⟨-, rfl⟩ := needUnconfigured_cases h
  · exact hk hc
  · exact .raiseFault s _
  · exact .refl t

/-- CONFIGURE gives an unconfigured engine a length within the capacity, or none (R121 to R123). -/
theorem execConfigure_portChange {s t : State} {n : Nat} (h : execConfigure n s = .next t) : PortChange s t := by
  refine .of_needUnconfigured h fun hc => ?_
  split
  · next hle => exact ⟨by simp, by simp, .inr (.inl ⟨hc, by simp, by simpa using one_le_normalise n, by simpa using hle⟩)⟩
  · exact .complete s _

/-- TEARDOWN leaves the engine unconfigured (R124). -/
theorem execTeardown_portChange {s t : State} (h : execTeardown s = .next t) : PortChange s t :=
  .of_needConfigured h ⟨by simp, by simp, .inr (.inr ⟨by simp, by simp⟩)⟩

/-- Every command but CONFIGURE and TEARDOWN keeps the configuration; no command writes the select line (R26). -/
theorem exec_portChange {s t : State} {i : Instr} (hi : needsConfigured i = true ∨ ∃ n, i = .configure n)
    (h : exec i s = .next t) : PortChange s t := by
  obtain hi | ⟨n, rfl⟩ := hi
  · cases i with
    | teardown => exact execTeardown_portChange h
    | writeRegister k f =>
      refine .of_needConfigured h ?_
      split
      · exact .complete s _
      · exact .runProgram s _
    | writeAllRegisters f => exact .of_needConfigured h (.runProgram s _)
    | updateBufferReplicate c l v =>
      refine .of_needConfigured h ?_
      split
      · exact .updateRun s c l _
      · exact .complete s _
    | updateBufferSequence c l =>
      refine .of_needConfigured h ?_
      split
      · exact .updateRun s c l _
      · exact .of_kept rfl rfl rfl rfl
    | refresh => exact .of_needConfigured h (.runProgram s _)
    | _ => simp [needsConfigured] at hi
  · exact execConfigure_portChange h

/-- A header's effect, legal or not (R77, R207). -/
theorem acceptHeader_portChange {s t : State} {w : CmdWord} (h : s.acceptHeader w = .next t) : PortChange s t := by
  simp only [State.acceptHeader] at h
  split at h
  · next hd => exact exec_portChange (decode_isCommand hd) h
  · cases h; exact .raiseFault s _

/-- A payload word's effect (R163). -/
theorem acceptPayload_portChange {s t : State} {w : CmdWord} (h : s.acceptPayload w = .next t) : PortChange s t := by
  obtain ⟨_, -, ⟨-, rfl⟩ | ⟨-, rfl⟩⟩ := acceptPayload_cases h
  · exact .updateRun s _ _ _
  · exact .of_kept rfl rfl rfl rfl

/-- Used-up host actions make no difference to what the port changed. -/
theorem PortChange.of_host {s t : State} {rest : List HostAction} (h : PortChange { s with host := rest } t) :
    PortChange s t := ⟨h.cs, h.config.params, h.config.length⟩

/-! ## What a turn does to them -/

theorem hostTurn_portChange {s t : State} (h : hostTurn s = .next t) : PortChange s t := by
  obtain rfl | ⟨_, -, rfl⟩ | ⟨_, -, rfl⟩ | ⟨_, _, -, -, hw⟩ | ⟨_, _, -, -, hw⟩ := hostTurn_cases h
  · exact .refl t
  · exact .of_kept rfl rfl rfl rfl
  · exact .of_kept rfl rfl rfl rfl
  · exact (acceptHeader_portChange hw).of_host
  · exact (acceptPayload_portChange hw).of_host

theorem transportTurn_portChange {s t : State} (h : transportTurn s = .next t) : PortChange s t := by
  obtain rfl | ⟨_, _, -, -, rfl⟩ := transportTurn_cases h
  · exact .refl t
  · exact .of_kept rfl rfl rfl rfl

/-- No micro-operation writes the configuration (R103 to R106). -/
theorem runMicro_configChange {s t : State} {op : MicroOp} (h : s.runMicro op = .next t) : ConfigChange s t := by
  obtain ⟨-, hr⟩ | ⟨-, ⟨-, hr⟩ | ⟨_, -, hr⟩ | ⟨-, _, _, _, -, hr⟩ | ⟨-, hr⟩⟩ := runMicro_cases s op
  all_goals
    rw [hr] at h
    cases h
    exact .of_kept rfl rfl rfl

theorem engineTurn_configChange {s t : State} (h : engineTurn s = .next t) : ConfigChange s t := by
  obtain ⟨-, rfl⟩ | ⟨-, -, rfl⟩ | ⟨-, _, u, -, hm, rfl⟩ := engineTurn_cases h
  · exact (PortChange.refl t).config
  · exact (PortChange.complete s _).config
  · obtain ⟨hp, hl⟩ := runMicro_configChange hm
    exact ⟨by simpa using hp, by simpa using hl⟩

/-- Everything a step can do to the configuration, from any state. -/
theorem step_configChange {s t : State} (h : step s = .next t) : ConfigChange s t := by
  obtain ⟨-, rfl⟩ | ⟨-, a, _, -, ⟨l, rfl⟩, ht⟩ := step_turnOf_cases h
  · exact ⟨by simp only [State.applyReset]; split <;> rfl, .inr (.inr ⟨rfl, rfl⟩)⟩
  · have hu : ConfigChange { s with sched := l } t := by
      cases a with
      | host => exact (hostTurn_portChange ht).config
      | engine => exact engineTurn_configChange ht
      | transport => exact (transportTurn_portChange ht).config
    exact ⟨hu.params, hu.length⟩

/-- Settles O19: only CONFIGURE on an unconfigured engine, TEARDOWN and reset change the length. -/
theorem chainLengthImmutableWhileConfigured : Obligations.ChainLengthImmutableWhileConfigured := by
  intro s t hinv hstep
  have hchange := step_configChange hstep
  obtain ⟨hs1, hs0⟩ := hinv.config.range
  obtain ⟨ht1, ht0⟩ := (hchange.configInv hinv.config).range
  exact ⟨hs1, hs0, ht1, ht0, hchange.N_eq⟩

/-! ## The select line (R26) -/

/-- The micro-operations that write the select line, each with the level it sets. -/
theorem runMicro_cs_cases {s t : State} {op : MicroOp} (h : s.runMicro op = .next t) (hcs : t.cs ≠ s.cs) :
    (op = .beginTxn ∧ t.cs = false) ∨ (op = .endTxn ∧ t.cs = true) ∨ (op = .deselect ∧ t.cs = true) := by
  obtain ⟨-, hr⟩ | ⟨-, ⟨hop, hr⟩ | ⟨_, -, hr⟩ | ⟨hop, _, _, _, -, hr⟩ | ⟨hop, hr⟩⟩ := runMicro_cases s op
  all_goals
    rw [hr] at h
    cases h
  · exact absurd rfl hcs
  · exact .inl ⟨hop, rfl⟩
  · exact absurd rfl hcs
  · exact .inr (.inl ⟨hop, rfl⟩)
  · exact .inr (.inr ⟨hop, rfl⟩)

/-- An engine turn that changes the select line is in EXEC, at one of the three micro-operations. -/
theorem engineTurn_cs_cases {s t : State} (h : engineTurn s = .next t) (hcs : t.cs ≠ s.cs) :
    s.phase = .exec ∧
      ((s.mprog[s.mpc]? = some .beginTxn ∧ t.cs = false) ∨ (s.mprog[s.mpc]? = some .endTxn ∧ t.cs = true) ∨
        (s.mprog[s.mpc]? = some .deselect ∧ t.cs = true)) := by
  obtain ⟨-, rfl⟩ | ⟨-, -, rfl⟩ | ⟨hp, op, u, hop, hm, rfl⟩ := engineTurn_cases h
  · exact absurd rfl hcs
  · exact absurd rfl hcs
  · rw [State.finish_cs] at hcs ⊢
    have hwrites := runMicro_cs_cases hm hcs
    exact ⟨hp, by simpa [hop] using hwrites⟩

/-- Settles O45: the host's and the transport's turns keep the level, the engine's turn is split by micro-operation. -/
theorem selectLineWriters : Obligations.SelectLineWriters := by
  intro s t hstep hcs
  obtain ⟨hr, rfl⟩ | ⟨hr, a, u, hturn, ⟨l, rfl⟩, ht⟩ := step_turnOf_cases hstep
  · exact .inl ⟨hr, rfl⟩
  · cases a with
    | host => exact absurd (hostTurn_portChange ht).cs hcs
    | engine =>
      obtain ⟨hp, hwrites⟩ := engineTurn_cs_cases ht hcs
      exact .inr ⟨hr, _, hturn, hp, hwrites⟩
    | transport => exact absurd (transportTurn_portChange ht).cs hcs

end Sys2Proof.Machine
end

section
/-!
PROOFS. The statements on the encodings (30_encoding.md). The decoder has one equation per opcode and the command port one
per phase, from which R77 follows; R98 rests on the frames of each micro-program a command can load.
-/

namespace Sys2Proof

/-! ## Bit fields -/

/-- Appended bit vectors are zero exactly if both are. -/
theorem append_eq_zero_iff {m n : Nat} (x : BitVec m) (y : BitVec n) : x ++ y = 0 ↔ x = 0 ∧ y = 0 := by
  constructor
  · intro h
    exact ⟨by rw [← extract_append_high x y, h]; simp, by rw [← extract_append_low x y, h]; simp⟩
  · rintro ⟨rfl, rfl⟩
    exact BitVec.zero_append_zero

/-- A field of `m + n` bits is zero exactly if its upper `m` and its lower `n` bits are. -/
theorem extract_add_eq_zero_iff {v : Nat} (x : BitVec v) (lo m n : Nat) :
    x.extractLsb' lo (m + n) = 0 ↔ x.extractLsb' (lo + n) m = 0 ∧ x.extractLsb' lo n = 0 := by
  rw [← BitVec.extractLsb'_append_extractLsb'_eq_extractLsb' rfl, append_eq_zero_iff]

/-- The bits `w[55:0]`, zero in format N, are A and the low word (R71, R72). -/
theorem bits55to0_eq_zero_iff (w : CmdWord) : w.extractLsb' 0 56 = 0 ↔ aField w = 0 ∧ lowField w = 0 :=
  extract_add_eq_zero_iff w 0 24 32

/-- The bits `w[55:16]`, zero in format B, are A and the upper half of the low word (R71, R72). -/
theorem bits55to16_eq_zero_iff (w : CmdWord) : w.extractLsb' 16 40 = 0 ↔ aField w = 0 ∧ highHalf w = 0 :=
  extract_add_eq_zero_iff w 16 24 16

/-- An opcode is reserved, or one of the six of R76. -/
theorem opField_cases (w : CmdWord) :
    (opField w = 0x0#4 ∨ 0x7#4 ≤ opField w) ∨ opField w = 0x1#4 ∨ opField w = 0x2#4 ∨ opField w = 0x3#4 ∨
      opField w = 0x4#4 ∨ opField w = 0x5#4 ∨ opField w = 0x6#4 := by
  bv_omega

/-! ## The decoder, opcode by opcode (R76 to R78) -/

section DecodeByOpcode

variable {w : CmdWord}

theorem decode_of_rsvField_ne_zero (hrsv : rsvField w ≠ 0) : decode w = .error .reservedField := by
  simp only [decode, if_pos hrsv]

theorem decode_reservedOpcode (hrsv : rsvField w = 0) (hop : opField w = 0x0#4 ∨ 0x7#4 ≤ opField w) :
    decode w = .error .reservedOpcode := by
  have hop5 : opField w ≠ 0x5#4 := by bv_omega
  simp only [decode, hrsv, hop5, hop, ne_eq, not_true_eq_false, if_true, if_false]

theorem decode_configure (hrsv : rsvField w = 0) (hop : opField w = 0x1#4) :
    decode w = if modeField w ≠ 0 then .error .modeBit
      else if lowField w = 0 then .ok (.configure (aField w).toNat) else .error .zeroField := by
  simp [decode, hrsv, hop]

theorem decode_teardown (hrsv : rsvField w = 0) (hop : opField w = 0x2#4) :
    decode w = if modeField w ≠ 0 then .error .modeBit
      else if aField w = 0 ∧ lowField w = 0 then .ok .teardown else .error .zeroField := by
  simp [decode, hrsv, hop]

theorem decode_writeRegister (hrsv : rsvField w = 0) (hop : opField w = 0x3#4) :
    decode w = if modeField w ≠ 0 then .error .modeBit
      else if highHalf w = 0 then .ok (.writeRegister (aField w).toNat (fField w)) else .error .zeroField := by
  simp [decode, hrsv, hop]

theorem decode_writeAllRegisters (hrsv : rsvField w = 0) (hop : opField w = 0x4#4) :
    decode w = if modeField w ≠ 0 then .error .modeBit
      else if aField w = 0 ∧ highHalf w = 0 then .ok (.writeAllRegisters (fField w)) else .error .zeroField := by
  simp [decode, hrsv, hop]

theorem decode_updateBuffer (hrsv : rsvField w = 0) (hop : opField w = 0x5#4) :
    decode w = if modeField w = 0 then .ok (.updateBufferReplicate (aField w).toNat (lField w).toNat (vField w))
      else if vField w = 0 then .ok (.updateBufferSequence (aField w).toNat (lField w).toNat)
      else .error .sequenceByte := by
  simp [decode, hrsv, hop]

theorem decode_refresh (hrsv : rsvField w = 0) (hop : opField w = 0x6#4) :
    decode w = if modeField w ≠ 0 then .error .modeBit
      else if aField w = 0 ∧ lowField w = 0 then .ok .refresh else .error .zeroField := by
  simp [decode, hrsv, hop]

end DecodeByOpcode

/-! ## The illegal headers (R77) -/

/-- The clauses (a) to (e) of R77 over the named fields. -/
theorem decode_error_iff (w : CmdWord) : (∃ e, decode w = .error e) ↔
    ((opField w).toNat = 0 ∨ 7 ≤ (opField w).toNat) ∨
    rsvField w ≠ 0 ∨
    (modeField w = 1 ∧ (opField w).toNat ≠ 5) ∨
    ((opField w).toNat = 1 ∧ lowField w ≠ 0) ∨
    ((opField w).toNat = 2 ∧ ¬ (aField w = 0 ∧ lowField w = 0)) ∨
    ((opField w).toNat = 3 ∧ highHalf w ≠ 0) ∨
    ((opField w).toNat = 4 ∧ ¬ (aField w = 0 ∧ highHalf w = 0)) ∨
    ((opField w).toNat = 6 ∧ ¬ (aField w = 0 ∧ lowField w = 0)) ∨
    ((opField w).toNat = 5 ∧ modeField w = 1 ∧ vField w ≠ 0) := by
  by_cases hrsv : rsvField w ≠ 0
  · exact iff_of_true ⟨_, decode_of_rsvField_ne_zero hrsv⟩ (.inr (.inl hrsv))
  replace hrsv : rsvField w = 0 := not_not.1 hrsv
  have hmode := BitVec.eq_zero_or_eq_one (modeField w)
  obtain hop | hop | hop | hop | hop | hop | hop := opField_cases w
  · exact iff_of_true ⟨_, decode_reservedOpcode hrsv hop⟩ (.inl (by bv_omega))
  · obtain hm | hm := hmode <;> simp [decode_configure hrsv hop, ite_eq_iff, hrsv, hop, hm]
  · obtain hm | hm := hmode <;> simp [decode_teardown hrsv hop, ite_eq_iff, hrsv, hop, hm]
  · obtain hm | hm := hmode <;> simp [decode_writeRegister hrsv hop, ite_eq_iff, hrsv, hop, hm]
  · obtain hm | hm := hmode <;> simp [decode_writeAllRegisters hrsv hop, ite_eq_iff, hrsv, hop, hm]
  · obtain hm | hm := hmode <;> simp [decode_updateBuffer hrsv hop, ite_eq_iff, hrsv, hop, hm]
  · obtain hm | hm := hmode <;> simp [decode_refresh hrsv hop, ite_eq_iff, hrsv, hop, hm]

end Sys2Proof

namespace Sys2Proof.Machine

/-! ## The command port, phase by phase (R34) -/

theorem hostTurn_word_idle {s : State} {w : CmdWord} {rest : List HostAction} (hhost : s.host = .word w :: rest)
    (hp : s.phase = .idle) : hostTurn s = ({ s with host := rest } : State).acceptHeader w := by
  simp only [hostTurn, hhost, State.presentWord, hp]

theorem hostTurn_word_collect {s : State} {w : CmdWord} {rest : List HostAction} (hhost : s.host = .word w :: rest)
    (hp : s.phase = .collect) : hostTurn s = ({ s with host := rest } : State).acceptPayload w := by
  simp only [hostTurn, hhost, State.presentWord, hp]

/-- An illegal header raises ILLEGAL_COMMAND (R77, R205). -/
theorem acceptHeader_of_error (s : State) {w : CmdWord} {e : DecodeError} (h : decode w = .error e) :
    s.acceptHeader w = .next (s.raiseFault .illegalCommand) := by
  simp only [State.acceptHeader, h]

/-- Settles O3: the clauses by opcode, then the host's turn in IDLE and in COLLECT. -/
theorem illegalHeadersAreThoseOfR77 : Obligations.IllegalHeadersAreThoseOfR77 := by
  refine ⟨fun w => ?_, ?_, ?_⟩
  · rw [ne_eq (w.extractLsb' 0 56), bits55to0_eq_zero_iff, ne_eq (w.extractLsb' 16 40), bits55to16_eq_zero_iff]
    exact decode_error_iff w
  · intro s u w e rest hr hturn hhost hp hd
    rw [step_turnOf hr hturn]
    exact (hostTurn_word_idle hhost hp).trans (acceptHeader_of_error _ hd)
  · intro s u w rest hr hturn hhost hp
    rw [step_turnOf hr hturn]
    exact hostTurn_word_collect hhost hp

/-- Settles O4: both words evaluated, through the encoder, the decoder and the field projections. -/
theorem workedEncodingsDecode : Obligations.WorkedEncodingsDecode :=
  ⟨rfl, rfl, rfl, rfl, rfl, rfl, rfl⟩

/-! ## The frames of a micro-program -/

@[simp] theorem sends_append (xs ys : List MicroOp) : sends (xs ++ ys) = sends xs ++ sends ys := by
  induction xs with
  | nil => rfl
  | cons op ops ih => cases op <;> simp [sends, ih]

@[simp] theorem sends_map_send (fs : List Frame) : sends (fs.map MicroOp.send) = fs := by
  induction fs with
  | nil => rfl
  | cons f fs ih => simp [sends, ih]

/-- A transaction sends the frames it is made of (R109). -/
@[simp] theorem sends_txn (fs : List Frame) : sends (txn fs) = fs := by
  simp [txn, sends]

@[simp] theorem sends_broadcast (n : Nat) (f : Frame) : sends (broadcast n f) = List.replicate n f :=
  sends_txn _

/-- Every frame of a walk is the one for some physical position (R140). -/
theorem exists_of_mem_walk {g : Nat → Frame} {n : Nat} {f : Frame} (h : f ∈ walk g n) : ∃ p, f = g p := by
  induction n with
  | zero => simp [walk] at h
  | succ n ih =>
    rcases List.mem_cons.1 h with rfl | h
    · exact ⟨_, rfl⟩
    · exact ih h

/-- WRITE_REGISTER sends its operand and no-op frames (R141). -/
theorem mem_addressedFrames {n k : Nat} {f g : Frame} (h : g ∈ addressedFrames n k f) : g = f ∨ g = 0x0000#16 := by
  obtain ⟨p, rfl⟩ := exists_of_mem_walk h
  split
  · exact .inl rfl
  · exact .inr rfl

/-- CONFIGURE sends the three initialisation frames (R121, R127; data bytes from D12, log 17). -/
theorem mem_sends_initProgram {n : Nat} {f : Frame} (h : f ∈ sends (initProgram n)) :
    f = 0x0900#16 ∨ f = 0x0B07#16 ∨ f = 0x0F00#16 := by
  simp only [initProgram, sends, sends_append, sends_broadcast, List.mem_append, List.mem_replicate] at h
  obtain (⟨-, rfl⟩ | ⟨-, rfl⟩) | ⟨-, rfl⟩ := h
  · exact .inl rfl
  · exact .inr (.inl rfl)
  · exact .inr (.inr rfl)

theorem sends_flatMap_txn (rs : List Nat) (g : Nat → List Frame) :
    sends (rs.flatMap fun r => txn (g r)) = rs.flatMap g := by
  induction rs with
  | nil => rfl
  | cons r rs ih => simp [ih]

/-- REFRESH sends digit frames of the rows 0 to 7 (R181). -/
theorem mem_sends_refreshProgram {s : State} {f : Frame} (h : f ∈ sends s.refreshProgram) :
    ∃ r b, r < 8 ∧ f = frame (digitReg r) b := by
  rw [State.refreshProgram, sends_flatMap_txn] at h
  obtain ⟨r, hr, hf⟩ := List.mem_flatMap.1 h
  obtain ⟨p, rfl⟩ := exists_of_mem_walk hf
  exact ⟨r, _, List.mem_range.1 hr, rfl⟩

/-! ## What a command leaves in EXEC -/

@[simp] theorem State.runProgram_mprog (s : State) (prog : List MicroOp) : (s.runProgram prog).mprog = prog := by
  simp only [State.runProgram]
  split
  · next h => exact h.symm
  · rfl

@[simp] theorem State.updateRun_phase (s : State) (c l : Nat) (bytes : List Byte) :
    (s.updateRun c l bytes).phase = .idle := by
  simp only [State.updateRun]; split <;> rfl

/-- From IDLE, only a configured-only command's own part leads to EXEC. -/
theorem eq_of_needConfigured_exec {s t k : State} (hp : s.phase = .idle) (h : s.needConfigured k = .next t)
    (ht : t.phase = .exec) : t = k := by
  obtain ⟨-, -, rfl⟩ | ⟨-, -, rfl⟩ | ⟨hnot, -⟩ := needConfigured_cases h
  · rfl
  · cases ht
  · exact absurd hp hnot

/-- From IDLE, only CONFIGURE's own part leads to EXEC. -/
theorem eq_of_needUnconfigured_exec {s t k : State} (hp : s.phase = .idle) (h : s.needUnconfigured k = .next t)
    (ht : t.phase = .exec) : t = k := by
  obtain ⟨-, -, rfl⟩ | ⟨-, -, rfl⟩ | ⟨hnot, -⟩ := needUnconfigured_cases h
  · rfl
  · cases ht
  · exact absurd hp hnot

/-- A frame's arm, which is a chip's action, leaves the engine's phase (R107). -/
theorem exec_frame_phase {s t : State} {i : Instr} (hi : needsConfigured i = false) (hc : ∀ n, i ≠ .configure n)
    (h : exec i s = .next t) : t.phase = s.phase := by
  cases i with
  | configure n => exact absurd rfl (hc n)
  | teardown | writeRegister | writeAllRegisters | updateBufferReplicate | updateBufferSequence | refresh => cases hi
  | frameNoop z d => cases h; rfl
  | _ => cases h; exact State.latchInto_phase ..

/-- The micro-program a command loads from IDLE, command by command (R121, R141, R146, R181). -/
theorem exec_loaded_cases {s t : State} {i : Instr} (hp : s.phase = .idle) (h : exec i s = .next t)
    (ht : t.phase = .exec) :
    (∃ n, i = .configure n ∧ t.mprog = initProgram (normalise n)) ∨
      (∃ k f, i = .writeRegister k f ∧ t.mprog = txn (addressedFrames s.N k f)) ∨
      (∃ f, i = .writeAllRegisters f ∧ t.mprog = broadcast s.N f) ∨
      (i = .refresh ∧ t.mprog = s.refreshProgram) := by
  cases i with
  | configure n =>
    cases eq_of_needUnconfigured_exec hp h ht
    split at ht
    · next hle => exact .inl ⟨n, rfl, by rw [if_pos hle, State.runProgram_mprog]⟩
    · cases ht
  | teardown =>
    cases eq_of_needConfigured_exec hp h ht
    cases ht
  | writeRegister k f =>
    cases eq_of_needConfigured_exec hp h ht
    split at ht
    · cases ht
    · next hlt => exact .inr (.inl ⟨k, f, rfl, by rw [if_neg hlt, State.runProgram_mprog]⟩)
  | writeAllRegisters f =>
    cases eq_of_needConfigured_exec hp h ht
    exact .inr (.inr (.inl ⟨f, rfl, State.runProgram_mprog ..⟩))
  | updateBufferReplicate c l v =>
    cases eq_of_needConfigured_exec hp h ht
    split at ht
    · simp at ht
    · cases ht
  | updateBufferSequence c l =>
    cases eq_of_needConfigured_exec hp h ht
    split at ht
    · simp at ht
    · cases ht
  | refresh =>
    cases eq_of_needConfigured_exec hp h ht
    exact .inr (.inr (.inr ⟨rfl, State.runProgram_mprog ..⟩))
  | _ =>
    rw [exec_frame_phase rfl (by simp) h, hp] at ht
    cases ht

/-- Settles O44: the frames of each micro-program a command can load. -/
theorem generatedFramesAreThoseOfR98 : Obligations.GeneratedFramesAreThoseOfR98 := by
  intro s t i f hp h ht hf
  obtain ⟨n, rfl, hprog⟩ | ⟨k, g, rfl, hprog⟩ | ⟨g, rfl, hprog⟩ | ⟨rfl, hprog⟩ := exec_loaded_cases hp h ht
  all_goals rw [hprog] at hf
  · obtain rfl | rfl | rfl := mem_sends_initProgram hf <;> simp
  · rw [sends_txn] at hf
    obtain rfl | rfl := mem_addressedFrames hf <;> simp
  · rw [sends_broadcast] at hf
    simp [List.eq_of_mem_replicate hf]
  · have hdigit : ∃ r b, r < 8 ∧ f = frame (BitVec.ofNat 4 (r + 1)) b := mem_sends_refreshProgram hf
    simp only [hdigit, true_or, or_true]

end Sys2Proof.Machine
end

section
/-!
PROOFS. The statements on the transport gate, the transport and the chain (40_transport_gate.md). The engine's turn at one
micro-operation comes first, with what the invariant says of the select line there; END rests on `latchEdge_latched` and
`latchEdge_mismatch`, a stalled transport on `step_hung`.
-/

namespace Sys2Proof.Machine

/-! ## The engine's turn at one micro-operation -/

section AtMicroOp

variable {s t : State} {op : MicroOp}

theorem mpc_lt_of_some (hop : s.mprog[s.mpc]? = some op) : s.mpc < s.mprog.length :=
  (List.getElem?_eq_some_iff.1 hop).1

/-- Before the end of its micro-program a command does not complete (R21). -/
theorem finish_of_lt (h : s.mpc < s.mprog.length) : s.finish = s := by
  rw [State.finish, if_neg (Nat.ne_of_lt h)]

/-- In EXEC the turn is the micro-operation at `mpc`, then the completion check (R21, R113). -/
theorem engineTurn_of_runMicro (hp : s.phase = .exec) (hop : s.mprog[s.mpc]? = some op) (hm : s.runMicro op = .next t) :
    engineTurn s = .next t.finish := by
  simp only [engineTurn, hp, hop, hm, andThen]

/-- A micro-operation that is held leaves everything as it is (R103 to R106). -/
theorem engineTurn_of_held (hp : s.phase = .exec) (hop : s.mprog[s.mpc]? = some op) (hh : s.held op = true) :
    engineTurn s = .next s := by
  have hm : s.runMicro op = .next s := by simp [State.runMicro, hh]
  rw [engineTurn_of_runMicro hp hop hm, finish_of_lt (mpc_lt_of_some hop)]

/-- In states of the invariant the micro-operation at `mpc` is one the gate allows, and the select line is inactive exactly
where the gate is closed (R108 to R110). -/
theorem State.Inv.gate_at (h : s.Inv) (hp : s.phase = .exec) (hop : s.mprog[s.mpc]? = some op) :
    ∃ g g', gateOp s.N g op = some g' ∧ s.cs = decide (g = Gate.closed) := by
  obtain ⟨-, -, -, hexec⟩ := h.exec hp
  obtain ⟨-, ⟨g, hg, hcs⟩, hall⟩ := (execOk_iff s).1 hexec
  obtain ⟨g', hg'⟩ := gateOp_isSome hop hg hall
  exact ⟨g, g', hg', hcs⟩

/-- BEGIN and DESELECT run only with the select line inactive (R108). -/
theorem State.Inv.cs_of_outside (h : s.Inv) (hp : s.phase = .exec) (hop : s.mprog[s.mpc]? = some op)
    (hout : op = .beginTxn ∨ op = .deselect) : s.cs = true := by
  obtain ⟨g, g', hg, hcs⟩ := h.gate_at hp hop
  cases g with
  | closed => simpa using hcs
  | opened k => obtain rfl | rfl := hout <;> cases hg

/-- SEND runs only with the select line active (R108). -/
theorem State.Inv.cs_of_send {f : Frame} (h : s.Inv) (hp : s.phase = .exec)
    (hop : s.mprog[s.mpc]? = some (.send f)) : s.cs = false := by
  obtain ⟨g, g', hg, hcs⟩ := h.gate_at hp hop
  cases g with
  | closed => cases hg
  | opened k => simpa using hcs

end AtMicroOp

/-! ## BEGIN, SEND and DESELECT -/

/-- Settles O33: held, or the effect of BEGIN short of the program's end. -/
theorem beginDrivesSelectLow : Obligations.BeginDrivesSelectLow := by
  intro s u hr hturn hp hop hlt
  rw [step_turnOf hr hturn]
  refine ⟨fun hbusy => engineTurn_of_held hp hop hbusy, fun hbusy => ?_, fun hinv => hinv.cs_of_outside hp hop (.inl rfl)⟩
  have hm : u.runMicro .beginTxn = u.microBegin := by simp [State.runMicro, State.held, hbusy]
  exact (engineTurn_of_runMicro hp hop hm).trans (congrArg _ (finish_of_lt hlt))

/-- Settles O34: held, or the effect of SEND short of the program's end. -/
theorem sendEnqueuesTheFrame : Obligations.SendEnqueuesTheFrame := by
  intro s u f hr hturn hp hop hlt
  rw [step_turnOf hr hturn]
  refine ⟨fun hfull => engineTurn_of_held hp hop hfull, fun hfull => ?_, fun hinv => hinv.cs_of_send hp hop⟩
  have hm : u.runMicro (.send f) = u.microSend f := by simp [State.runMicro, State.held, hfull]
  exact (engineTurn_of_runMicro hp hop hm).trans (congrArg _ (finish_of_lt hlt))

/-- Settles O37: DESELECT is never held, and rewrites the level the invariant gives. -/
theorem deselectMakesNoEvent : Obligations.DeselectMakesNoEvent := by
  intro s u hr hturn hp hop hlt
  have hstep : step s = .next { u with cs := true, mpc := u.mpc + 1 } := by
    rw [step_turnOf hr hturn]
    exact (engineTurn_of_runMicro hp hop rfl).trans (congrArg _ (finish_of_lt hlt))
  exact ⟨hstep, fun hinv => by rw [hstep, ← hinv.cs_of_outside hp hop (.inr rfl)]⟩

/-! ## The latch edge, chip by chip -/

/-- The frames in no row of the register map are those of register address 0xD and 0xE (R96). -/
theorem frameAddr_of_decodeFrame_error {f : Frame} {e : DecodeError} (h : decodeFrame f = .error e) :
    frameAddr f = 0xD#4 ∨ frameAddr f = 0xE#4 := by
  have hlt := (frameAddr f).isLt
  have hn : (frameAddr f).toNat = 13 ∨ (frameAddr f).toNat = 14 := by
    simp only [decodeFrame] at h
    split at h
    case h_15 => simp only [imp_false] at *; omega
    all_goals cases h
  exact hn.imp (fun h13 => BitVec.eq_of_toNat_eq h13) fun h14 => BitVec.eq_of_toNat_eq h14

/-- `c'` is the chip `c` after a latch edge: the shift register stays, and unless the frame's register address is 0xD or
0xE the register it names holds its data byte, every other register what it held (R107, R96). -/
structure Latched (c c' : Chip) : Prop where
  shift : c'.shift = c.shift
  regs : frameAddr c.shift ≠ 0xD#4 → frameAddr c.shift ≠ 0xE#4 → ∀ a, chipReg c' a =
    if a ≠ 0 ∧ a = frameAddr c.shift then some (frameData c.shift) else chipReg c a

/-- A change of the chip behind `done` in the chain. -/
theorem modifyChip_append {s : State} {done rest : List Chip} {c : Chip} (h : s.chips = done ++ c :: rest)
    (g : Chip → Chip) : s.modifyChip (done.length + 1) g = { s with chips := done ++ g c :: rest } := by
  have hmod : (done ++ c :: rest).modify done.length g = done ++ g c :: rest :=
    List.modifyTailIdx_add (List.modifyHead g) 0 done (c :: rest)
  simp only [State.modifyChip, h, hmod]

/-- One chip's latch reaches that chip alone. -/
theorem latchChip_latched {s : State} {done rest : List Chip} {c : Chip} (h : s.chips = done ++ c :: rest) :
    ∃ c' q k, s.latchChip (done.length + 1) = .next { s with chips := done ++ c' :: rest, latchPos := q, free := k } ∧
      Latched c c' := by
  have hat : s.chipAt (done.length + 1) = some c := by simp [State.chipAt, h]
  simp only [State.latchChip, hat]
  cases hd : decodeFrame c.shift with
  | ok i =>
    refine ⟨chipSet c (frameAddr c.shift) (frameData c.shift), done.length + 1, s.free, ?_,
      chipSet_shift .., fun _ _ a => chipReg_chipSet ..⟩
    have hmod := modifyChip_append (s := { s with latchPos := done.length + 1 }) h
    simp only [exec_frame hd, State.latchInto, hmod]
  | error e =>
    refine ⟨{ c with regs := freeRegs s.free }, s.latchPos, s.free + 15, ?_, rfl, fun hD hE => ?_⟩
    · simp only [State.forgetChip]
      rw [modifyChip_append h]
    · exact absurd (frameAddr_of_decodeFrame_error hd) (by simp [hD, hE])

/-- The chips behind `done` latch one after the other. -/
theorem latchChips_latched (rest : List Chip) : ∀ (done : List Chip) (s : State), s.chips = done ++ rest →
    ∃ rest' k, latchChips rest.length (done.length + 1) s =
      .next { s with chips := done ++ rest', latchPos := 1, free := k } ∧ List.Forall₂ Latched rest rest' := by
  induction rest with
  | nil => intro done s h; exact ⟨[], s.free, by rw [← h]; rfl, .nil⟩
  | cons c rest ih =>
    intro done s h
    obtain ⟨c', q, j, hchip, hc⟩ := latchChip_latched h
    obtain ⟨rest', k, hrest, hl⟩ := ih (done ++ [c'])
      { s with chips := done ++ c' :: rest, latchPos := q, free := j } (by simp)
    refine ⟨c' :: rest', k, ?_, .cons hc hl⟩
    simp only [List.length_append, List.length_singleton, List.append_assoc, List.singleton_append] at hrest
    simp only [List.length_cons, latchChips, hchip, andThen, hrest]

/-- At the latch edge of a chain of `N` chips every chip latches (R107). -/
theorem latchEdge_latched {s : State} (h : s.N = s.chips.length) :
    ∃ cs k, s.latchEdge = .next { s with chips := cs, latchPos := 1, free := k } ∧ List.Forall₂ Latched s.chips cs := by
  rw [State.latchEdge, if_pos h]
  exact latchChips_latched s.chips [] s rfl

/-- Under a length mismatch the latch edge leaves every chip register any value (R240). -/
theorem latchEdge_mismatch {s : State} (h : s.N ≠ s.chips.length) : s.latchEdge = .next s.forgetAllChips := by
  rw [State.latchEdge, if_neg h]

/-! ## END -/

/-- END's turn once the transport is idle: the latch edge with the select line inactive, then the completion check. -/
theorem engineTurn_endTxn {s t : State} (hp : s.phase = .exec) (hop : s.mprog[s.mpc]? = some .endTxn)
    (hbusy : s.txBusy = false)
    (hedge : ({ s.emit .selHigh with cs := true, mpc := s.mpc + 1 } : State).latchEdge = .next t) :
    engineTurn s = .next t.finish := by
  have hm : s.runMicro .endTxn = s.microEnd := by simp [State.runMicro, State.held, hbusy]
  exact engineTurn_of_runMicro hp hop (hm.trans hedge)

/-- Settles O35: held, or the latch edge of a chain of `N` chips. -/
theorem endLatchesTheChain : Obligations.EndLatchesTheChain := by
  intro s u hr hturn hp hop
  rw [step_turnOf hr hturn]
  refine ⟨fun hbusy => engineTurn_of_held hp hop hbusy, fun hbusy hN => ?_⟩
  obtain ⟨cs, k, hedge, hl⟩ :=
    latchEdge_latched (s := { u.emit .selHigh with cs := true, mpc := u.mpc + 1 }) hN
  obtain ⟨hlen, hget⟩ := List.forall₂_iff_get.1 hl
  refine ⟨cs, k, engineTurn_endTxn hp hop hbusy hedge, hlen.symm, fun p c hc => ?_⟩
  obtain ⟨hlt, rfl⟩ := List.getElem?_eq_some_iff.1 hc
  obtain ⟨hshift, hregs⟩ := hget p hlt (hlen ▸ hlt)
  exact ⟨_, List.getElem?_eq_getElem (hlen ▸ hlt), hshift, hregs⟩

/-- Settles O36: the latch edge of a chain of another length. -/
theorem endUnderLengthMismatch : Obligations.EndUnderLengthMismatch := by
  intro s u hr hturn hp hop hbusy hN
  rw [step_turnOf hr hturn]
  exact ⟨_, _, engineTurn_endTxn hp hop hbusy (latchEdge_mismatch hN), forgetRegs_shifts _ _⟩

/-! ## The transport's shift -/

/-- A shift changes no register (R107). -/
@[simp] theorem shiftIn_regs (f : Frame) (cs : List Chip) : (shiftIn f cs).map Chip.regs = cs.map Chip.regs := by
  induction cs generalizing f with
  | nil => rfl
  | cons c cs ih => simp [shiftIn, ih]

/-- A shift puts its frame before the chain's frames, and the last one leaves (R107). -/
theorem shiftIn_shifts (f : Frame) (cs : List Chip) :
    (shiftIn f cs).map Chip.shift = (f :: cs.map Chip.shift).take cs.length := by
  induction cs generalizing f with
  | nil => rfl
  | cons c cs ih => simp [shiftIn, ih]

/-- Settles O38: the status by definition, the turn on an empty and on a non-empty queue. -/
theorem transportShiftsInOrder : Obligations.TransportShiftsInOrder := by
  intro s u hr hturn hs
  rw [step_turnOf hr hturn]
  refine ⟨by simp [State.txBusy, hs], by simp [State.txFull, hs], fun hq => ?_, fun f q hq => ?_⟩
  · simp [agentTurn, transportTurn, hs, hq]
  · exact ⟨shiftIn f u.chips, by simp [agentTurn, transportTurn, hs, hq], shiftIn_length .., shiftIn_regs ..,
      shiftIn_shifts ..⟩

/-! ## Transactions of exactly `N` frames (R110) -/

theorem gateRun_broadcast (n : Nat) (f : Frame) : gateRun n .closed (broadcast n f) = some .closed :=
  gateRun_txn n _ List.length_replicate

/-- CONFIGURE's micro-program: DESELECT outside, then three broadcasts (R121). -/
theorem gateRun_initProgram (n : Nat) : gateRun n .closed (initProgram n) = some .closed := by
  simp [initProgram, gateRun, gateOp, gateRun_append, gateRun_broadcast]

theorem gateRun_flatMap_txn {n : Nat} (rs : List Nat) (g : Nat → List Frame) (h : ∀ r, (g r).length = n) :
    gateRun n .closed (rs.flatMap fun r => txn (g r)) = some .closed := by
  induction rs with
  | nil => rfl
  | cons r rs ih => simp [gateRun_append, gateRun_txn n _ (h r), ih]

/-- REFRESH's micro-program: one transaction of `N` frames for each row (R181). -/
theorem gateRun_refreshProgram (s : State) : gateRun s.N .closed s.refreshProgram = some .closed :=
  gateRun_flatMap_txn _ _ fun _ => walk_length _ _

/-- CONFIGURE loads its micro-program for the length it configures (R121, R122). -/
theorem execConfigure_loaded_N {s t : State} {n : Nat} (hp : s.phase = .idle) (h : execConfigure n s = .next t)
    (ht : t.phase = .exec) : t.N = normalise n := by
  cases eq_of_needUnconfigured_exec hp h ht
  split at ht
  · next hle => simp [hle]
  · cases ht

/-- A configured-only command whose own part keeps the length keeps it into EXEC. -/
theorem needConfigured_loaded_N {s t k : State} (hp : s.phase = .idle) (h : s.needConfigured k = .next t)
    (ht : t.phase = .exec) (hk : k.N = s.N) : t.N = s.N := by
  rw [eq_of_needConfigured_exec hp h ht, hk]

/-- Settles O43: the micro-program of each command that loads one. -/
theorem transactionsHaveExactlyNFrames : Obligations.TransactionsHaveExactlyNFrames := by
  intro s t i hp h ht
  obtain ⟨n, rfl, hprog⟩ | ⟨k, f, rfl, hprog⟩ | ⟨f, rfl, hprog⟩ | ⟨rfl, hprog⟩ := exec_loaded_cases hp h ht
  · rw [hprog, execConfigure_loaded_N hp h ht]
    exact gateRun_initProgram _
  · have hN : t.N = s.N := needConfigured_loaded_N hp h ht (by split <;> simp)
    rw [hprog, hN]
    exact gateRun_txn _ _ (walk_length _ _)
  · have hN : t.N = s.N := needConfigured_loaded_N hp h ht (State.runProgram_N ..)
    rw [hprog, hN]
    exact gateRun_broadcast _ _
  · have hN : t.N = s.N := needConfigured_loaded_N hp h ht (State.runProgram_N ..)
    rw [hprog, hN]
    exact gateRun_refreshProgram s

/-! ## A stalled transport (R111) -/

/-- EXEC at a micro-operation that waits for the transport, with a stalled transport and no reset to come. -/
structure State.Hung (s : State) : Prop where
  rst : s.rst = false
  host : noResetLeft s.host = true
  phase : s.phase = .exec
  stalled : s.stalled = true
  waits : ∃ op, s.mprog[s.mpc]? = some op ∧ op ≠ .deselect

/-- A stalled transport reports busy and full, so every micro-operation but DESELECT is held (R111). -/
theorem held_of_stalled {s : State} {op : MicroOp} (hs : s.stalled = true) (hop : op ≠ .deselect) :
    s.held op = true := by
  cases op with
  | deselect => exact absurd rfl hop
  | _ => simp [State.held, State.txBusy, State.txFull, hs]

/-- In EXEC the host's turn presents a word in vain, reads STATUS or asserts reset (R34, R243). -/
theorem hostTurn_hung {s : State} (h : s.Hung) :
    ∃ l r, hostTurn s = .next { s with host := l, statusReads := r } ∧ noResetLeft l = true := by
  have hleft := h.host
  cases hhost : s.host with
  | nil =>
    have ht : hostTurn s = .next s := by simp only [hostTurn, hhost]
    exact ⟨s.host, s.statusReads, ht, hleft⟩
  | cons a rest =>
    cases a with
    | word w =>
      have ht : hostTurn s = .next s := by simp only [hostTurn, hhost, State.presentWord, h.phase]
      exact ⟨s.host, s.statusReads, ht, hleft⟩
    | readStatus => exact ⟨rest, s.statusReads ++ [s.status], by simp only [hostTurn, hhost], by rwa [hhost] at hleft⟩
    | assertReset => rw [hhost] at hleft; cases hleft

/-- Whoever's turn it is, only the host's script and its STATUS reads can change. -/
theorem agentTurn_hung {s : State} (h : s.Hung) (a : Agent) :
    ∃ l r, agentTurn a s = .next { s with host := l, statusReads := r } ∧ noResetLeft l = true := by
  obtain ⟨op, hop, hne⟩ := h.waits
  cases a with
  | host => exact hostTurn_hung h
  | engine => exact ⟨_, _, engineTurn_of_held h.phase hop (held_of_stalled h.stalled hne), h.host⟩
  | transport =>
    have ht : transportTurn s = .next s := by simp [transportTurn, h.stalled]
    exact ⟨s.host, s.statusReads, ht, h.host⟩

/-- Taking a turn off the schedule changes the schedule alone. -/
theorem turnOf_eq (s : State) : ∃ a l, s.turnOf = (a, { s with sched := l }) := by
  simp only [State.turnOf]
  split
  · next a rest _ => exact ⟨a, rest, rfl⟩
  · exact ⟨s.defaultAgent, s.sched, rfl⟩

/-- A step of a hung state changes only the schedule, the host's script and its STATUS reads. -/
theorem step_hung {s : State} (h : s.Hung) :
    ∃ q l r, step s = .next { s with sched := q, host := l, statusReads := r } ∧
      ({ s with sched := q, host := l, statusReads := r } : State).Hung := by
  obtain ⟨a, q, hturn⟩ := turnOf_eq s
  have hu : ({ s with sched := q } : State).Hung := ⟨h.rst, h.host, h.phase, h.stalled, h.waits⟩
  obtain ⟨l, r, ht, hl⟩ := agentTurn_hung hu a
  exact ⟨q, l, r, (step_turnOf h.rst hturn).trans ht, h.rst, hl, h.phase, h.stalled, h.waits⟩

theorem run_hung (k : Nat) : ∀ s : State, s.Hung →
    ∃ q l r, Sys2Proof.core.run k s = .next { s with sched := q, host := l, statusReads := r } := by
  induction k with
  | zero => intro s _; exact ⟨s.sched, s.host, s.statusReads, rfl⟩
  | succ k ih =>
    intro s h
    obtain ⟨_, _, _, hstep, ht⟩ := step_hung h
    obtain ⟨q, l, r, hrun⟩ := ih _ ht
    exact ⟨q, l, r, (run_succ k hstep).trans hrun⟩

/-- Settles O46: every step of a hung state leaves it hung. -/
theorem stalledTransportHangsTheEngine : Obligations.StalledTransportHangsTheEngine := by
  intro k s op hr hhost hp hs hop hne
  obtain ⟨q, l, r, hrun⟩ := run_hung k s ⟨hr, hhost, hp, hs, op, hop, hne⟩
  exact ⟨_, hrun, hp, rfl, rfl, rfl, rfl, rfl, rfl⟩

end Sys2Proof.Machine
end

section
/-!
PROOFS. The statements on CONFIGURE and TEARDOWN (41_lifecycle.md). Each command has one equation for every case of its
acceptance in IDLE; the retry after R123 and the new length after R126 chain these equations.
-/

namespace Sys2Proof.Machine

/-! ## Normalisation and the zero fill -/

/-- A positive length is its own normal form (R122). -/
theorem normalise_of_pos {n : Nat} (h : 1 ≤ n) : normalise n = n :=
  if_neg (Nat.one_le_iff_ne_zero.1 h)

/-- After the zero fill of R128 the filled offsets hold 0 and every other offset what it held. -/
theorem fbLookup_zeroFill (m : List Host.Cell) (k i : Nat) :
    fbLookup (fbWriteRun m 0 (List.replicate k 0x00#8)) i = if i < k then some 0x00#8 else fbLookup m i := by
  rw [fbLookup_fbWriteRun]
  by_cases h : i < k <;> simp [h]

/-- An unconfigured engine's framebuffer has no known content (R41, R69). -/
theorem State.Inv.fb_eq_nil {s : State} (h : s.Inv) (hc : s.configured = false) : s.fb = [] := by
  obtain ⟨-, hbelow, -⟩ := h.fbOk
  have hN : s.N = 0 := h.config.range.2 hc
  exact List.eq_nil_iff_forall_not_mem.2 fun x hx => by simpa [hN] using hbelow x hx

/-- CONFIGURE's micro-program is never empty, so it always runs in EXEC (R36, R121). -/
theorem initProgram_ne_nil (n : Nat) : initProgram n ≠ [] := List.cons_ne_nil _ _

/-! ## CONFIGURE and TEARDOWN in IDLE, case by case -/

section Idle

variable {s : State} (hp : s.phase = .idle)
include hp

/-- Within capacity CONFIGURE sets the length, fills the buffer and starts its micro-program (R121). -/
theorem exec_configure_within {n : Nat} (hc : s.configured = false) (hn : normalise n ≤ s.params.chainLenMax) :
    exec (.configure n) s = .next { s.configureTo (normalise n) with
      phase := .exec, mprog := initProgram (normalise n), mpc := 0 } := by
  refine (needUnconfigured_idle _ hp hc).trans ?_
  rw [if_pos hn, runProgram_of_ne_nil (initProgram_ne_nil _)]

/-- Beyond capacity CONFIGURE completes with BUFFER_ALLOCATION_ERROR (R123). -/
theorem exec_configure_beyond {n : Nat} (hc : s.configured = false) (hn : s.params.chainLenMax < normalise n) :
    exec (.configure n) s = .next (s.complete .bufferAllocationError) := by
  refine (needUnconfigured_idle _ hp hc).trans ?_
  rw [if_neg (Nat.not_le.2 hn)]

/-- TEARDOWN releases the length and the buffer and completes in the accepting step (R124). -/
theorem exec_teardown_configured (hc : s.configured = true) :
    exec .teardown s = .next (({ s.fbForget with configured := false, N := 0 } : State).complete .ok) := by
  refine (needConfigured_idle _ hp hc).trans ?_
  rw [runProgram_nil]

/-- Every command but CONFIGURE faults on an unconfigured engine (R204). -/
theorem exec_unconfigured {i : Instr} (hc : s.configured = false) (hi : needsConfigured i = true) :
    exec i s = .next (s.raiseFault .unconfiguredUse) := by
  cases i with
  | teardown | writeRegister | writeAllRegisters | updateBufferReplicate | updateBufferSequence | refresh =>
    exact needConfigured_fault _ hp hc
  | _ => cases hi

end Idle

/-! ## The statements -/

/-- Settles O14: 0 and 1 have the same normal form, which every legal capacity admits; the buffer was empty before. -/
theorem configureZeroIsConfigureOne : Obligations.ConfigureZeroIsConfigureOne := by
  intro s hinv hp hc
  obtain ⟨⟨hcap, -⟩, -⟩ := hinv.config
  refine ⟨rfl, _, exec_configure_within hp hc hcap, rfl, rfl, rfl, fun i => ?_⟩
  rw [State.configureTo_fb, fbLookup_zeroFill, hinv.fb_eq_nil hc]
  by_cases hi : i < 8 <;> simp [normalise, hi, fbLookup]

/-- Settles O15: the state after the error is again IDLE and unconfigured with the same capacity. -/
theorem configureBeyondCapacity : Obligations.ConfigureBeyondCapacity := by
  intro s n hinv hp hc hn
  have hp' : ({ s with result := .bufferAllocationError } : State).phase = .idle := hp
  refine ⟨?_, fun m hm hcap => ?_, fun i hi => exec_unconfigured hp' hc hi⟩
  · rw [exec_configure_beyond hp hc hn, complete_idle hinv hp]
  · have hnorm : normalise m = m := normalise_of_pos hm
    exact ⟨_, exec_configure_within hp' hc (hnorm.symm ▸ hcap), rfl, hnorm⟩

/-- Settles O16: TEARDOWN leaves the engine in IDLE and unconfigured with the same capacity, where CONFIGURE succeeds. -/
theorem reconfigureFaults : Obligations.ReconfigureFaults := fun _ _ hp hc =>
  ⟨needUnconfigured_fault _ hp hc, fun hn =>
    ⟨_, _, exec_teardown_configured hp hc, exec_configure_within rfl rfl hn, rfl, rfl⟩⟩

end Sys2Proof.Machine
end

section
/-!
PROOFS. The statements on the chip writes (42_chip_write.md). The comparison of the addressed with the broadcast write is
one of their frames, slot by slot. The commands that end with OFFSET_ERROR have one equation each that leads to
`State.complete`, which in IDLE writes RESULT only.
-/

namespace Sys2Proof.Machine

/-! ## The frames of the two writes -/

/-- Slot `j` (from 0) of the addressed write carries `F` at `chipOffset` and a no-op elsewhere (R141, R143). -/
theorem addressedFrames_getElem? {n j : Nat} (k : Nat) (f : Frame) (hj : j < n) :
    (addressedFrames n k f)[j]? = some (if j = k then f else noopFrame) := by
  have hoffset : logicalOffset n (n - j) = j := Nat.sub_sub_self hj.le
  rw [addressedFrames, walk_getElem?, if_pos hj, hoffset]

/-- The addressed write sends the broadcast's frames where every slot but the addressed one would carry `F` anyway. -/
theorem addressedFrames_eq_replicate {n k : Nat} {f : Frame} (h : ∀ j < n, j ≠ k → f = noopFrame) :
    addressedFrames n k f = List.replicate n f := by
  refine List.ext_getElem? fun j => ?_
  by_cases hj : j < n
  · rw [addressedFrames_getElem? k f hj, List.getElem?_replicate, if_pos hj]
    by_cases hjk : j = k
    · rw [if_pos hjk]
    · rw [if_neg hjk, h j hj hjk]
  · have hlen : (addressedFrames n k f).length = n := walk_length _ n
    rw [List.getElem?_eq_none (by omega), List.getElem?_eq_none (by simpa using hj)]

/-! ## The writes and the updates in a configured engine in IDLE -/

section Configured

variable {s : State} (hp : s.phase = .idle) (hc : s.configured = true)
include hp hc

/-- WRITE_REGISTER inside the chain starts its one transaction (R141). -/
theorem exec_writeRegister_within {k : Nat} (f : Frame) (hk : k < s.N) :
    exec (.writeRegister k f) s = .next { s with
      phase := .exec, mprog := txn (addressedFrames s.N k f), mpc := 0 } := by
  refine (needConfigured_idle _ hp hc).trans ?_
  rw [if_neg (Nat.not_le.2 hk), runProgram_of_ne_nil (txn_ne_nil _)]

/-- WRITE_REGISTER outside the chain completes with OFFSET_ERROR (R142). -/
theorem exec_writeRegister_beyond {k : Nat} (f : Frame) (hk : s.N ≤ k) :
    exec (.writeRegister k f) s = .next (s.complete .offsetError) := by
  refine (needConfigured_idle _ hp hc).trans ?_
  rw [if_pos hk]

/-- WRITE_ALL_REGISTERS starts its one broadcast (R146). -/
theorem exec_writeAllRegisters_configured (f : Frame) :
    exec (.writeAllRegisters f) s = .next { s with phase := .exec, mprog := broadcast s.N f, mpc := 0 } := by
  refine (needConfigured_idle _ hp hc).trans ?_
  rw [broadcast, runProgram_of_ne_nil (txn_ne_nil _)]

/-- UPDATE_BUFFER_REPLICATE is the update's end with `L` copies of `V`, whether or not the run is valid (R161). -/
theorem exec_updateBufferReplicate_configured (c l : Nat) (v : Byte) :
    exec (.updateBufferReplicate c l v) s = .next (s.updateRun c l (List.replicate l v)) := by
  refine (needConfigured_idle _ hp hc).trans ?_
  by_cases hrun : 0 < l ∧ c + l - 1 < 8 * s.N
  · rw [if_pos ((validRun_iff _ _ _).2 hrun)]
  · rw [if_neg (mt (validRun_iff _ _ _).1 hrun), updateRun_of_invalid _ hrun]

/-- UPDATE_BUFFER_SEQUENCE of no byte takes no payload: its header is already the update's end (R163). -/
theorem exec_updateBufferSequence_zero (c : Nat) :
    exec (.updateBufferSequence c 0) s = .next (s.updateRun c 0 []) := by
  refine (needConfigured_idle _ hp hc).trans ?_
  rw [if_pos ((payloadWords_eq_zero 0).2 rfl)]

/-- Both writes run the same program where they send the same frames. -/
theorem exec_writeRegister_eq_writeAllRegisters {k : Nat} {f : Frame} (hk : k < s.N)
    (h : ∀ j < s.N, j ≠ k → f = noopFrame) : exec (.writeRegister k f) s = exec (.writeAllRegisters f) s := by
  rw [exec_writeRegister_within hp hc f hk, exec_writeAllRegisters_configured hp hc f, broadcast,
    addressedFrames_eq_replicate h]

end Configured

/-- The last payload word is the update's end, with the bytes collected by then (R163). -/
theorem acceptPayload_last {s : State} {p : Pending} (w : CmdWord) (hpend : s.pend = some p) (hlast : p.remaining ≤ 1) :
    s.acceptPayload w = .next (s.updateRun p.offset p.length (collectBytes p w)) := by
  simp only [State.acceptPayload, hpend, if_pos hlast]

/-- After an invalid run's last payload word the command completes with OFFSET_ERROR (R163, R201). -/
theorem acceptPayload_last_invalid {s : State} {p : Pending} (w : CmdWord) (hpend : s.pend = some p)
    (hlast : p.remaining ≤ 1) (hrun : ¬ (0 < p.length ∧ p.offset + p.length - 1 < 8 * s.N)) :
    s.acceptPayload w = .next (s.complete .offsetError) := by
  rw [acceptPayload_last w hpend hlast, updateRun_of_invalid _ hrun]

/-! ## The statements -/

/-- Settles O22: with one chip the addressed slot is the only one, and `0x0000` is the no-op; else a slot from 2 on
carries the no-op in one transaction and `F` in the other. -/
theorem addressedAndBroadcastWritesCompared : Obligations.AddressedAndBroadcastWritesCompared := by
  intro s f hinv hp hc
  have hpos : 0 < s.N := (hinv.config.range.1 hc).1
  refine ⟨fun hone => ?_, ?_, fun _ hf => ?_⟩
  · exact exec_writeRegister_eq_writeAllRegisters hp hc hpos fun j hj hj0 => absurd hj0 (by omega)
  · exact exec_writeRegister_eq_writeAllRegisters hp hc hpos fun _ _ _ => rfl
  · refine ⟨_, _, exec_writeRegister_within hp hc f hpos, exec_writeAllRegisters_configured hp hc f, ?_, fun j hj hjN => ?_⟩
    · rw [sends_txn, sends_broadcast, addressedFrames_getElem? 0 f hpos, List.getElem?_replicate, if_pos hpos, if_pos rfl]
    · have hj0 : j ≠ 0 := Nat.one_le_iff_ne_zero.1 hj
      rw [sends_txn, sends_broadcast, addressedFrames_getElem? 0 f hjN, List.getElem?_replicate, if_pos hjN,
        if_neg hj0]
      exact fun h => hf (Option.some.inj h).symm

/-- Settles O30: each of the four ends in `State.complete`, which sets back the phase and the pending header too. -/
theorem offsetErrorsHaveNoOtherEffect : Obligations.OffsetErrorsHaveNoOtherEffect := by
  intro s hinv hp hc
  have hcomplete : s.complete .offsetError = { s with result := .offsetError } := complete_idle hinv hp _
  refine ⟨fun k f hk => ?_, fun c l v hrun => ?_, fun c => ?_, fun c l received w hrun => ?_⟩
  · rw [exec_writeRegister_beyond hp hc f hk, hcomplete]
  · rw [exec_updateBufferReplicate_configured hp hc, updateRun_of_invalid _ hrun, hcomplete]
  · rw [exec_updateBufferSequence_zero hp hc, updateRun_of_invalid _ (by omega), hcomplete]
  · exact (acceptPayload_last_invalid w rfl le_rfl hrun).trans (congrArg Host.Outcome.next hcomplete)

end Sys2Proof.Machine
end

section
/-!
PROOFS. The statements on the framebuffer updates (43_buffer_update.md). A run of writes is read back by
`fbLookup_fbWriteRun`; the payload words of a list of bytes give these bytes back (R74); the whole of
UPDATE_BUFFER_SEQUENCE is its header's step and an induction over its payload words.
-/

namespace Sys2Proof

/-! ## The payload's lanes (R74) -/

/-- Eight bytes put together are read back as the eight lanes, most significant first. -/
theorem lanes_append (b0 b1 b2 b3 b4 b5 b6 b7 : Byte) :
    lanes (((((((b0 ++ b1) ++ b2) ++ b3) ++ b4) ++ b5) ++ b6) ++ b7) = [b0, b1, b2, b3, b4, b5, b6, b7] := by
  have := b0.isLt; have := b1.isLt; have := b2.isLt; have := b3.isLt
  have := b4.isLt; have := b5.isLt; have := b6.isLt; have := b7.isLt
  simp only [lanes, List.cons.injEq, and_true]
  refine ⟨?_, ?_, ?_, ?_, ?_, ?_, ?_, ?_⟩
  all_goals
    apply BitVec.eq_of_toNat_eq
    simp only [toNat_extract, toNat_append_mul]
    omega

/-- The lanes of payload word `i` are the bytes from `8 * i` on, zero beyond the list. -/
theorem lanes_packWord (bytes : List Byte) (i : Nat) :
    lanes (packWord bytes i) = (List.range 8).map fun j => bytes.getD (8 * i + j) 0#8 :=
  lanes_append ..

/-- The lanes of the first `k` payload words in order. -/
theorem flatMap_lanes_packWord (bytes : List Byte) (k : Nat) :
    ((List.range k).map (packWord bytes)).flatMap lanes = (List.range (8 * k)).map fun j => bytes.getD j 0#8 := by
  induction k with
  | zero => rfl
  | succ k ih =>
    rw [List.range_succ, List.map_append, List.flatMap_append, ih, Nat.mul_succ, List.range_add, List.map_append,
      List.map_map, List.map_singleton, List.flatMap_singleton, lanes_packWord]
    rfl

/-- Reading a list at each of its indices gives the list. -/
theorem map_getD_range (bytes : List Byte) (d : Byte) :
    ((List.range bytes.length).map fun j => bytes.getD j d) = bytes :=
  List.ext_getElem (by simp) fun j _ hj => by simp [hj]

@[simp] theorem packPayload_length (bytes : List Byte) : (packPayload bytes).length = payloadWords bytes.length := by
  simp [packPayload]

/-- The lanes of a list's payload words, the padding dropped, are the list. -/
theorem take_flatMap_lanes_packPayload (bytes : List Byte) :
    ((packPayload bytes).flatMap lanes).take bytes.length = bytes := by
  have henough : bytes.length ≤ 8 * payloadWords bytes.length := (payloadWords_bounds _).1
  rw [packPayload, flatMap_lanes_packWord, ← List.map_take, List.take_range, Nat.min_eq_left henough, map_getD_range]

/-- Bytes cut before more are added are cut again: only the last cut counts. -/
theorem take_take_append {α : Type} (xs ys : List α) (n : Nat) : (xs.take n ++ ys).take n = (xs ++ ys).take n := by
  obtain h | h := Nat.le_total xs.length n
  · rw [List.take_of_length_le h]
  · rw [List.take_append_of_le_length (by simp [h]), List.take_append_of_le_length h, List.take_take, Nat.min_self]

/-! ## The header of UPDATE_BUFFER_SEQUENCE -/

/-- The header word of a `copy` line (R72, R76). -/
def sequenceHeader (c l : Nat) : CmdWord := header 0x5#4 1#1 (field24 c) (field24 l ++ 0#8)

theorem decode_sequenceHeader {c l : Nat} (hc : c < fieldBound) (hl : l < fieldBound) :
    decode (sequenceHeader c l) = .ok (.updateBufferSequence c l) := by
  have hm : modeField (sequenceHeader c l) ≠ 0 := by simp [sequenceHeader]
  have ha : aField (sequenceHeader c l) = field24 c := aField_header ..
  have hlen : lField (sequenceHeader c l) = field24 l := by
    rw [lField_eq, sequenceHeader, lowField_header, extract_append_high]
  have hv : vField (sequenceHeader c l) = 0 := by
    rw [vField_eq, sequenceHeader, lowField_header, extract_append_low]; rfl
  have hupdate := decode_updateBuffer (w := sequenceHeader c l) (rsvField_header ..) (opField_header ..)
  rw [hupdate, if_neg hm, if_pos hv, ha, hlen, field24_toNat hc, field24_toNat hl]

/-- A `copy` line's words are its header and its payload (R74, R79). -/
theorem words_copy (c l : Nat) (bytes : List Byte) :
    (AsmLine.copy c l bytes).words = sequenceHeader c l :: packPayload bytes := rfl

end Sys2Proof

namespace Sys2Proof.Machine

/-! ## The end of an update -/

/-- With no micro-program loaded, completion writes the phase, RESULT and the pending header (R36). -/
theorem complete_of_quiet {s : State} (h : s.quiet) (r : Result) :
    s.complete r = { s with phase := .idle, result := r, pend := none } := by
  obtain ⟨hprog, hpc, -⟩ := h
  simp only [State.complete, ← hprog, ← hpc]

section Idle

variable {s : State} (hinv : s.Inv) (hp : s.phase = .idle) {c l : Nat} (bytes : List Byte)
include hinv hp

/-- In IDLE a valid run writes the framebuffer and RESULT and nothing else (R161, R162). -/
theorem updateRun_of_valid_idle (h : 0 < l ∧ c + l - 1 < 8 * s.N) :
    s.updateRun c l bytes = { s with fb := fbWriteRun s.fb c bytes, result := .ok } := by
  rw [updateRun_of_valid bytes h]
  exact congrArg (fun t : State => { t with fb := fbWriteRun s.fb c bytes }) (complete_idle hinv hp .ok)

/-- In IDLE an invalid run writes RESULT and nothing else (R163, R201). -/
theorem updateRun_of_invalid_idle (h : ¬ (0 < l ∧ c + l - 1 < 8 * s.N)) :
    s.updateRun c l bytes = { s with result := .offsetError } := by
  rw [updateRun_of_invalid bytes h, complete_idle hinv hp]

end Idle

/-- An update's end sets the phase and the pending header, whatever they were. -/
theorem updateRun_of_pending (s : State) (ph : Phase) (q : Option Pending) (c l : Nat) (bytes : List Byte) :
    ({ s with phase := ph, pend := q } : State).updateRun c l bytes = s.updateRun c l bytes := by
  simp only [State.updateRun]; split <;> rfl

/-- An update's end uses neither the host's script nor the schedule. -/
theorem updateRun_of_scripts (s : State) (hs : List HostAction) (rest : List Agent) (c l : Nat) (bytes : List Byte) :
    ({ s with host := hs, sched := rest } : State).updateRun c l bytes =
      { s.updateRun c l bytes with host := hs, sched := rest } := by
  simp only [State.updateRun]; split <;> rfl

/-! ## UPDATE_BUFFER_REPLICATE -/

/-- A run of equal bytes read back (R161). -/
theorem fbLookup_replicateRun (m : List Host.Cell) (c l : Nat) (v : Byte) (i : Nat) :
    fbLookup (fbWriteRun m c (List.replicate l v)) i = if c ≤ i ∧ i < c + l then some v else fbLookup m i := by
  rw [fbLookup_fbWriteRun, List.length_replicate]
  refine ite_congr rfl (fun hi => ?_) fun _ => rfl
  rw [List.getElem?_replicate, if_pos (by omega)]

/-- A valid fill in IDLE (R161, R162). -/
theorem exec_updateBufferReplicate_valid {s : State} (hinv : s.Inv) (hp : s.phase = .idle) (hc : s.configured = true)
    {c l : Nat} (v : Byte) (h : 0 < l ∧ c + l - 1 < 8 * s.N) :
    exec (.updateBufferReplicate c l v) s =
      .next { s with fb := fbWriteRun s.fb c (List.replicate l v), result := .ok } := by
  rw [exec_updateBufferReplicate_configured hp hc, updateRun_of_valid_idle hinv hp _ h]

/-- Settles O23: the cells are the run of writes, read back offset by offset. -/
theorem replicateWritesTheRun : Obligations.ReplicateWritesTheRun := by
  intro s c l v hinv hp hc hl hrun
  obtain ⟨hwf, -⟩ := hinv.fbOk
  exact ⟨_, exec_updateBufferReplicate_valid hinv hp hc v ⟨hl, hrun⟩, fbWf_fbWriteRun _ _ _ hwf,
    fbLookup_replicateRun s.fb c l v⟩

/-- Settles O24: a run of one byte is valid exactly below `8N`, and no run from `8N` on is. -/
theorem writableOffsetsAreThoseBelowEightN : Obligations.WritableOffsetsAreThoseBelowEightN := by
  intro s c v hinv hp hc
  obtain ⟨-, hfill, -⟩ := offsetErrorsHaveNoOtherEffect s hinv hp hc
  refine ⟨fun hlt => ?_, fun hge l => ?_⟩
  · refine ⟨_, exec_updateBufferReplicate_valid hinv hp hc v ⟨Nat.one_pos, hlt⟩, rfl, ?_, fun i hi => ?_⟩
    · rw [fbLookup_replicateRun, if_pos (by omega)]
    · rw [fbLookup_replicateRun, if_neg (by omega)]
  · exact hfill c l v (by omega)

/-! ## UPDATE_BUFFER_SEQUENCE, word by word -/

/-- With bytes to come the header starts COLLECT, whether or not the run is valid (R36, R163). -/
theorem exec_updateBufferSequence_pos {s : State} (hp : s.phase = .idle) (hc : s.configured = true) (c : Nat) {l : Nat}
    (hl : 0 < l) :
    exec (.updateBufferSequence c l) s = .next { s with
      phase := .collect, pend := some { offset := c, length := l, received := [], remaining := payloadWords l } } := by
  refine (needConfigured_idle _ hp hc).trans ?_
  rw [if_neg (mt (payloadWords_eq_zero l).1 hl.ne')]

/-- Settles O25: `ceil(L/8)` of R14 is `(L + 7) / 8`; a header of no byte ends in OFFSET_ERROR at once. -/
theorem sequenceHeaderCollects : Obligations.SequenceHeaderCollects := by
  intro s c l hinv hp hc
  obtain ⟨-, -, hnoByte, -⟩ := offsetErrorsHaveNoOtherEffect s hinv hp hc
  exact ⟨exec_updateBufferSequence_pos hp hc c, fun hl => hl ▸ hnoByte c⟩

/-- The host's turn in COLLECT is the acceptance of its word (R34, R36). -/
theorem step_word_collect {s u : State} {w : CmdWord} {rest : List HostAction} (hr : s.rst = false)
    (hturn : s.turnOf = (.host, u)) (hhost : u.host = .word w :: rest) (hp : u.phase = .collect) :
    step s = ({ u with host := rest } : State).acceptPayload w :=
  (step_turnOf hr hturn).trans (hostTurn_word_collect hhost hp)

/-- A payload word that is not the last joins the bytes received (R163). -/
theorem acceptPayload_more {s : State} {p : Pending} (w : CmdWord) (hpend : s.pend = some p) (hmore : 2 ≤ p.remaining) :
    s.acceptPayload w = .next { s with
      pend := some { p with received := collectBytes p w, remaining := p.remaining - 1 } } := by
  simp only [State.acceptPayload, hpend, if_neg (Nat.not_le.2 hmore)]

/-- Settles O26: the word's bits take no part in the case split, only the number of words due does. -/
theorem payloadWordJoinsThePending : Obligations.PayloadWordJoinsThePending := by
  intro s u w rest p hr hturn hhost hp hpend hmore
  rw [step_word_collect hr hturn hhost hp]
  exact acceptPayload_more w hpend hmore

/-- With the last word a pending header has its `L` bytes: eight have come for each of its `ceil(L/8)` words (R74). -/
theorem collectBytes_length {p : Pending} (h : pendOk p) (hlast : p.remaining = 1) (w : CmdWord) :
    (collectBytes p w).length = p.length := by
  obtain ⟨-, hdue, hreceived⟩ := h
  have henough := (payloadWords_bounds p.length).1
  rw [collectBytes, List.length_take, List.length_append, lanes_length]
  omega

/-- Settles O27: the bytes collected are `L` many, so the run of writes covers exactly the run's offsets. -/
theorem lastPayloadWordCompletes : Obligations.LastPayloadWordCompletes := by
  intro s u w rest p hinv hr hturn hhost hp hpend hlast
  obtain ⟨-, -, hquiet, q, hq, hpendOk⟩ := hinv.collect hp
  obtain rfl : p = q := Option.some.inj (hpend.symm.trans hq)
  have hstep : step s =
      .next { u.updateRun p.offset p.length (collectBytes p w) with host := rest, sched := u.sched } := by
    rw [step_word_collect hr hturn hhost hp, ← updateRun_of_scripts]
    exact acceptPayload_last w hpend hlast.le
  refine ⟨fun hl hrun => ⟨fbWriteRun u.fb p.offset (collectBytes p w), ?_, fun i => ?_⟩, fun hrun => ?_⟩
  · have hcomplete := complete_of_quiet (s := { u with fb := fbWriteRun u.fb p.offset (collectBytes p w) }) hquiet .ok
    rw [hstep, updateRun_of_valid _ ⟨hl, hrun⟩, hcomplete]
  · rw [fbLookup_fbWriteRun, collectBytes_length hpendOk hlast]
    refine ite_congr rfl (fun hi => ?_) fun _ => rfl
    exact List.getElem?_take_of_lt (by omega)
  · rw [hstep, updateRun_of_invalid _ fun h => hrun h.2, complete_of_quiet hquiet]

/-! ## UPDATE_BUFFER_SEQUENCE from header to last payload word -/

/-- `s` in COLLECT with the header `p` pending, the host about to present `ws` on its next turns, then to go on with `hs`
and `rest`. -/
def State.awaiting (s : State) (p : Pending) (ws : List CmdWord) (hs : List HostAction) (rest : List Agent) : State :=
  { s with phase := .collect, pend := some p, host := ws.map HostAction.word ++ hs
           sched := List.replicate ws.length Agent.host ++ rest }

section Payload

variable {s : State} (hr : s.rst = false) (hs : List HostAction) (rest : List Agent)
include hr

/-- The next step accepts the first of the words. -/
theorem step_awaiting (p : Pending) (w : CmdWord) (ws : List CmdWord) :
    step (s.awaiting p (w :: ws) hs rest) = (s.awaiting p ws hs rest).acceptPayload w :=
  step_word_collect (u := { s.awaiting p (w :: ws) hs rest with
    sched := List.replicate ws.length Agent.host ++ rest }) hr rfl rfl rfl

/-- As many words as are due end the command, with their lanes joined to the bytes received and cut to `L` (R74, R163). -/
theorem run_awaiting (w : CmdWord) (ws : List CmdWord) (p : Pending) (hdue : p.remaining = ws.length + 1) :
    Sys2Proof.core.run (ws.length + 1) (s.awaiting p (w :: ws) hs rest) =
      .next (({ s with host := hs, sched := rest } : State).updateRun p.offset p.length
        ((p.received ++ (w :: ws).flatMap lanes).take p.length)) := by
  induction ws generalizing w p with
  | nil =>
    have hstep : step (s.awaiting p [w] hs rest) =
        .next ((s.awaiting p [] hs rest).updateRun p.offset p.length (collectBytes p w)) :=
      (step_awaiting hr hs rest p w []).trans (acceptPayload_last w rfl hdue.le)
    rw [List.length_nil, run_succ 0 hstep, List.flatMap_singleton]
    exact congrArg Host.Outcome.next (updateRun_of_pending { s with host := hs, sched := rest } _ _ _ _ _)
  | cons w' ws ih =>
    have hmore : 2 ≤ p.remaining := by rw [hdue, List.length_cons]; omega
    have hstep : step (s.awaiting p (w :: w' :: ws) hs rest) = .next (s.awaiting
        { p with received := collectBytes p w, remaining := p.remaining - 1 } (w' :: ws) hs rest) :=
      (step_awaiting hr hs rest p w (w' :: ws)).trans (acceptPayload_more w rfl hmore)
    rw [List.length_cons, run_succ _ hstep, ih w' _ (by rw [hdue]; rfl), collectBytes, take_take_append,
      List.append_assoc, List.flatMap_cons (x := w)]

end Payload

/-- The host's turn in IDLE is the acceptance of its word as a header (R34, R36). -/
theorem step_word_idle {s u : State} {w : CmdWord} {rest : List HostAction} (hr : s.rst = false)
    (hturn : s.turnOf = (.host, u)) (hhost : u.host = .word w :: rest) (hp : u.phase = .idle) :
    step s = ({ u with host := rest } : State).acceptHeader w :=
  (step_turnOf hr hturn).trans (hostTurn_word_idle hhost hp)

/-- A legal header is executed (R207). -/
theorem acceptHeader_of_ok (s : State) {w : CmdWord} {i : Instr} (h : decode w = .ok i) :
    s.acceptHeader w = exec i s := by
  simp only [State.acceptHeader, h]

section Command

variable {s : State} {c : Nat} {bytes : List Byte} {hs : List HostAction} {rest : List Agent}
  (hr : s.rst = false) (hp : s.phase = .idle) (hc : s.configured = true)
  (hc24 : c < 2 ^ 24) (hpos : 0 < bytes.length) (hl24 : bytes.length < 2 ^ 24)
  (hhost : s.host = (AsmLine.copy c bytes.length bytes).words.map HostAction.word ++ hs)
  (hsched : s.sched = List.replicate (1 + payloadWords bytes.length) Agent.host ++ rest)
include hr hp hc hc24 hpos hl24 hhost hsched

/-- The header's step leaves the engine awaiting exactly the payload words that follow (R74, R163). -/
theorem step_sequenceHeader : step s = .next (s.awaiting
    { offset := c, length := bytes.length, received := [], remaining := payloadWords bytes.length }
    (packPayload bytes) hs rest) := by
  have hturn : s.turnOf = (.host, { s with
      sched := List.replicate (payloadWords bytes.length) Agent.host ++ rest }) := by
    rw [Nat.add_comm, List.replicate_succ, List.cons_append] at hsched
    simp only [State.turnOf, hsched]
  rw [words_copy, List.map_cons, List.cons_append] at hhost
  rw [step_word_idle hr hturn hhost hp, acceptHeader_of_ok _ (decode_sequenceHeader hc24 hl24), State.awaiting,
    packPayload_length]
  exact exec_updateBufferSequence_pos (s := { s with
    host := (packPayload bytes).map HostAction.word ++ hs
    sched := List.replicate (payloadWords bytes.length) Agent.host ++ rest }) hp hc c hpos

/-- The header and its payload words together are the update's end with the bytes they were made of. -/
theorem run_sequenceCommand : Sys2Proof.core.run (1 + payloadWords bytes.length) s =
    .next { s.updateRun c bytes.length bytes with host := hs, sched := rest } := by
  have hheader := step_sequenceHeader hr hp hc hc24 hpos hl24 hhost hsched
  have hbytes := take_flatMap_lanes_packPayload bytes
  have hlen := packPayload_length bytes
  cases hws : packPayload bytes with
  | nil => exact absurd ((payloadWords_eq_zero _).1 (by rw [← hlen, hws]; rfl)) hpos.ne'
  | cons w ws =>
    rw [hws] at hheader hbytes hlen
    rw [Nat.add_comm, run_succ _ hheader, ← hlen, List.length_cons, run_awaiting hr hs rest w ws _ rfl,
      List.nil_append, hbytes, updateRun_of_scripts]

end Command

/-- Settles O28: the command is the update's end with its bytes, whose run is valid or not. -/
theorem sequenceCommandCopiesItsBytes : Obligations.SequenceCommandCopiesItsBytes := by
  intro s c bytes hs rest hinv hr hp hc hc24 hpos hl24 hhost hsched
  rw [run_sequenceCommand hr hp hc hc24 hpos hl24 hhost hsched]
  by_cases hrun : c + bytes.length - 1 < 8 * s.N
  · rw [updateRun_of_valid_idle hinv hp bytes ⟨hpos, hrun⟩, if_pos hrun]
    refine ⟨_, rfl, fun i => ?_⟩
    rw [fbLookup_fbWriteRun]
    simp only [hrun, true_and]
  · rw [updateRun_of_invalid_idle hinv hp bytes fun h => hrun h.2, if_neg hrun]
    exact ⟨s.fb, rfl, fun i => (if_neg fun h => hrun h.1).symm⟩

/-! ## No bus activity (R165) -/

/-- The bus trace, the select line, the transport's queue and the chain are as they were, and no micro-program has been
loaded. -/
structure BusKept (s t : State) : Prop where
  trace : t.trace = s.trace
  cs : t.cs = s.cs
  queue : t.queue = s.queue
  chips : t.chips = s.chips
  mprog : s.mprog = [] → t.mprog = []

theorem BusKept.refl (s : State) : BusKept s s := ⟨rfl, rfl, rfl, rfl, id⟩

theorem BusKept.complete (s : State) (r : Result) : BusKept s (s.complete r) := ⟨rfl, rfl, rfl, rfl, fun _ => rfl⟩

theorem BusKept.updateRun (s : State) (c l : Nat) (bytes : List Byte) : BusKept s (s.updateRun c l bytes) := by
  simp only [State.updateRun]
  split
  · exact ⟨rfl, rfl, rfl, rfl, fun _ => rfl⟩
  · exact .complete s _

/-- The acceptance checks of a configured-only command add no bus activity to its own part. -/
theorem BusKept.of_needConfigured {s t k : State} (h : s.needConfigured k = .next t) (hk : BusKept s k) :
    BusKept s t := by
  obtain ⟨-, -, rfl⟩ | ⟨-, -, rfl⟩ | ⟨-, rfl⟩ := needConfigured_cases h
  · exact hk
  · exact ⟨rfl, rfl, rfl, rfl, id⟩
  · exact .refl t

theorem execUpdateBufferReplicate_busKept {s t : State} {c l : Nat} {v : Byte}
    (h : execUpdateBufferReplicate c l v s = .next t) : BusKept s t := by
  refine .of_needConfigured h ?_
  split
  · exact .updateRun s c l _
  · exact .complete s _

theorem execUpdateBufferSequence_busKept {s t : State} {c l : Nat}
    (h : execUpdateBufferSequence c l s = .next t) : BusKept s t := by
  refine .of_needConfigured h ?_
  split
  · exact .updateRun s c l _
  · exact ⟨rfl, rfl, rfl, rfl, id⟩

theorem acceptPayload_busKept {s t : State} {w : CmdWord} (h : s.acceptPayload w = .next t) : BusKept s t := by
  obtain ⟨_, -, ⟨-, rfl⟩ | ⟨-, rfl⟩⟩ := acceptPayload_cases h
  · exact .updateRun s _ _ _
  · exact ⟨rfl, rfl, rfl, rfl, id⟩

/-- Settles O29: both headers and the payload word, each in every state. -/
theorem updatesTouchNoBus : Obligations.UpdatesTouchNoBus := by
  intro s t c l v w h
  obtain ⟨htrace, hcs, hqueue, hchips, hmprog⟩ : BusKept s t := by
    obtain h | h | h := h
    · exact execUpdateBufferReplicate_busKept h
    · exact execUpdateBufferSequence_busKept h
    · exact acceptPayload_busKept h
  exact ⟨htrace, hcs, hqueue, hchips, hmprog⟩

end Sys2Proof.Machine
end

section
/-!
PROOFS. Micro-programs made of transactions, run on the default turns (log 1): each transaction shifts its frames into the
chain and latches them, and the last one completes the command (`reaches_completion`). What the transactions leave in a chip
register is a fold of `latchByte` over the frames of its chip's slot.
-/

namespace Sys2Proof.Machine

/-! ## Runs on the default turns (log 1) -/

/-- Some number of steps lead from one state to the other. -/
def Reaches (s t : State) : Prop := ∃ n, Sys2Proof.core.run n s = .next t

theorem Reaches.refl (s : State) : Reaches s s := ⟨0, rfl⟩

theorem Reaches.trans {s t u : State} (h : Reaches s t) (h' : Reaches t u) : Reaches s u := by
  obtain ⟨m, hm⟩ := h
  obtain ⟨n, hn⟩ := h'
  exact ⟨m + n, (run_add m n hm).trans hn⟩

theorem Reaches.of_step {s t : State} (h : step s = .next t) : Reaches s t := ⟨1, run_succ 0 h⟩

/-- EXEC on the default turns: no reset, no schedule, and a working transport whose queue has room for a frame. -/
structure State.Driving (s : State) : Prop where
  rst : s.rst = false
  sched : s.sched = []
  stalled : s.stalled = false
  phase : s.phase = .exec
  depth : 1 ≤ s.params.queueDepth

section Driving

variable {s : State} {op : MicroOp} {f : Frame} (h : s.Driving) (hop : s.mprog[s.mpc]? = some op)

include h hop in
/-- The engine moves where its micro-operation is not held. -/
theorem State.Driving.turnOf_engine (hheld : s.held op = false) : s.turnOf = (.engine, s) := by
  simp [State.turnOf, h.sched, State.defaultAgent, State.engineReady, h.phase, hop, hheld]

include h hop in
/-- Where it is held the transport shifts, if a frame is queued (R102). -/
theorem State.Driving.step_shift {q : List Frame} (hheld : s.held op = true) (hq : s.queue = f :: q) :
    step s = .next { s with queue := q, chips := shiftIn f s.chips } := by
  have hturn : s.turnOf = (.transport, s) := by
    simp [State.turnOf, h.sched, State.defaultAgent, State.engineReady, State.transportReady, hop, hheld, h.stalled, hq]
  simp [step_turnOf h.rst hturn, agentTurn, transportTurn, h.stalled, hq]

include h in
theorem State.Driving.txBusy_eq : s.txBusy = !s.queue.isEmpty := by simp [State.txBusy, h.stalled]

include h in
theorem State.Driving.txFull_eq : s.txFull = (s.queue.length == s.params.queueDepth) := by
  simp [State.txFull, h.stalled]

end Driving

/-! ## One transaction -/

/-- The chain after the frames of a list have been shifted in, one after the other (R107). -/
def shiftAll (fs : List Frame) (cs : List Chip) : List Chip := fs.foldl (fun cs f => shiftIn f cs) cs

@[simp] theorem shiftAll_length (fs : List Frame) (cs : List Chip) : (shiftAll fs cs).length = cs.length := by
  induction fs generalizing cs with
  | nil => rfl
  | cons f fs ih => exact (ih _).trans (shiftIn_length f cs)

/-- Shifting changes no register. -/
theorem shiftAll_regs (fs : List Frame) (cs : List Chip) : (shiftAll fs cs).map Chip.regs = cs.map Chip.regs := by
  induction fs generalizing cs with
  | nil => rfl
  | cons f fs ih => exact (ih _).trans (shiftIn_regs f cs)

/-- The last frame shifted in is nearest the controller. -/
theorem shiftAll_shifts (fs : List Frame) (cs : List Chip) :
    (shiftAll fs cs).map Chip.shift = (fs.reverse ++ cs.map Chip.shift).take cs.length := by
  induction fs generalizing cs with
  | nil => simp [shiftAll]
  | cons f fs ih =>
    have htail : shiftAll (f :: fs) cs = shiftAll fs (shiftIn f cs) := rfl
    rw [htail, ih, shiftIn_shifts, shiftIn_length]
    simp [List.take_append, List.take_take]

/-- After as many frames as chips, the chip at index `q` holds the frame sent `q` places before the last (R107). -/
theorem shiftAll_getElem? {fs : List Frame} {cs : List Chip} (hlen : fs.length = cs.length) {q : Nat} {c : Chip}
    (hc : cs[q]? = some c) :
    (shiftAll fs cs)[q]? = some { c with shift := fs.getD (cs.length - (q + 1)) noopFrame } := by
  obtain ⟨hq, rfl⟩ := List.getElem?_eq_some_iff.1 hc
  have hq' : q < (shiftAll fs cs).length := by rwa [shiftAll_length]
  have hshifts : (shiftAll fs cs).map Chip.shift = fs.reverse := by
    rw [shiftAll_shifts, ← hlen, ← List.length_reverse, List.take_left]
  have hregs : ((shiftAll fs cs)[q]).regs = cs[q].regs := by
    have h := congrArg (·[q]?) (shiftAll_regs fs cs)
    simpa [hq, hq'] using h
  have hshift : ((shiftAll fs cs)[q]).shift = fs.getD (cs.length - (q + 1)) noopFrame := by
    have h := congrArg (·[q]?) hshifts
    rw [List.getD_eq_getElem _ _ (by omega)]
    simpa [hlen, hq, Nat.sub_sub, Nat.add_comm 1] using h
  rw [List.getElem?_eq_getElem hq', ← hshift, ← hregs]

/-- What is left of a list from index `i` on, read at its head. -/
theorem of_drop_eq_cons {α : Type} {l xs : List α} {i : Nat} {x : α} (h : l.drop i = x :: xs) :
    l[i]? = some x ∧ l.drop (i + 1) = xs := by
  have hget : (l.drop i)[0]? = some x := by rw [h]; rfl
  have htail : (l.drop i).tail = xs := by rw [h]; rfl
  exact ⟨by simpa using hget, by simpa using htail⟩

theorem lt_length_of_drop_eq {α : Type} {l xs ys : List α} {i : Nat} {y : α} (h : l.drop i = xs ++ y :: ys) :
    i < l.length := by
  by_contra hle
  rw [List.drop_eq_nil_of_le (Nat.le_of_not_lt hle)] at h
  exact List.append_ne_nil_of_right_ne_nil xs (List.cons_ne_nil y ys) h.symm

/-- A transaction micro-operation by micro-operation, with what follows it (R109). -/
theorem txn_append (fs : List Frame) (rest : List MicroOp) :
    txn fs ++ rest = .beginTxn :: (fs.map .send ++ .endTxn :: rest) := by simp [txn]

/-- `s` inside a transaction: at `i`, with the queue `q`, the chain `cs` and the trace `tr`. -/
def State.midway (s : State) (i : Nat) (q : List Frame) (cs : List Chip) (tr : List Event) : State :=
  { s with mpc := i, queue := q, chips := cs, trace := tr }

/-- `s` after an END at which the select line goes inactive: at `i`, the transport idle, the chain latched. -/
def State.latchedAt (s : State) (i : Nat) (cs : List Chip) (tr : List Event) (k : Nat) : State :=
  { s with cs := true, mpc := i, queue := [], chips := cs, trace := tr, latchPos := 1, free := k }

theorem finish_of_eq {s : State} (h : s.mpc = s.mprog.length) : s.finish = s.complete .ok := if_pos h

section Transaction

variable {s : State} (h : s.Driving)
include h

theorem State.Driving.midway (i : Nat) (q : List Frame) (cs : List Chip) (tr : List Event) :
    (s.midway i q cs tr).Driving := ⟨h.rst, h.sched, h.stalled, h.phase, h.depth⟩

/-- While END waits, the queue runs empty into the chain. -/
theorem reaches_drained {i : Nat} (hop : s.mprog[i]? = some .endTxn) (tr : List Event) (q : List Frame) :
    ∀ cs, Reaches (s.midway i q cs tr) (s.midway i [] (shiftAll q cs) tr) := by
  induction q with
  | nil => exact fun cs => .refl _
  | cons f q ih =>
    intro cs
    have hd := h.midway i (f :: q) cs tr
    exact (Reaches.of_step (hd.step_shift hop hd.txBusy_eq rfl)).trans (ih _)

/-- A SEND that finds room in the queue is enqueued (R104). -/
theorem reaches_enqueued {i : Nat} {q : List Frame} {f : Frame} (hop : s.mprog[i]? = some (.send f))
    (hlt : i + 1 < s.mprog.length) (hroom : q.length < s.params.queueDepth) (cs : List Chip) (tr : List Event) :
    Reaches (s.midway i q cs tr) (s.midway (i + 1) (q ++ [f]) cs (tr ++ [.enq f])) := by
  have hd := h.midway i q cs tr
  have hfull : (s.midway i q cs tr).txFull = false := hd.txFull_eq.trans (beq_false_of_ne hroom.ne)
  obtain ⟨-, hsend, -⟩ := sendEnqueuesTheFrame _ _ f hd.rst (hd.turnOf_engine hop hfull) hd.phase hop hlt
  exact .of_step (hsend hfull)

/-- A SEND is enqueued at once, or after the transport has made room with one shift; either way the frames queued and
sent are the same, in the same order. -/
theorem reaches_sent {i : Nat} {q : List Frame} {f : Frame} (hop : s.mprog[i]? = some (.send f))
    (hlt : i + 1 < s.mprog.length) (hdepth : q.length ≤ s.params.queueDepth) (cs : List Chip) (tr : List Event) :
    ∃ q' cs', Reaches (s.midway i q cs tr) (s.midway (i + 1) q' cs' (tr ++ [.enq f])) ∧
      q'.length ≤ s.params.queueDepth ∧ ∀ fs, shiftAll (q' ++ fs) cs' = shiftAll (q ++ f :: fs) cs := by
  obtain hroom | hfull := hdepth.lt_or_eq
  · exact ⟨q ++ [f], cs, reaches_enqueued h hop hlt hroom cs tr, by simpa using hroom, fun fs => by simp⟩
  · cases q with
    | nil => exact absurd h.depth (by simp [← hfull])
    | cons g q =>
      have hd := h.midway i (g :: q) cs tr
      have hshift := hd.step_shift hop (hd.txFull_eq.trans (beq_iff_eq.2 hfull)) rfl
      have hroom : q.length < s.params.queueDepth := by rw [← hfull]; exact Nat.lt_succ_self _
      exact ⟨q ++ [f], shiftIn g cs, (Reaches.of_step hshift).trans (reaches_enqueued h hop hlt hroom _ tr),
        by simpa using hroom, fun fs => by simp [shiftAll]⟩

/-- The sends of a transaction: when END can run, all their frames are in the chain (R101, R107). -/
theorem reaches_sends {rest : List MicroOp} (fs : List Frame) : ∀ i q cs tr, q.length ≤ s.params.queueDepth →
    s.mprog.drop i = fs.map .send ++ .endTxn :: rest →
    ∃ tr', Reaches (s.midway i q cs tr) (s.midway (i + fs.length) [] (shiftAll (q ++ fs) cs) tr') := by
  induction fs with
  | nil =>
    intro i q cs tr _ hprog
    obtain ⟨hop, -⟩ := of_drop_eq_cons hprog
    exact ⟨tr, by simpa using reaches_drained h hop tr q cs⟩
  | cons f fs ih =>
    intro i q cs tr hdepth hprog
    obtain ⟨hop, hdrop⟩ := of_drop_eq_cons hprog
    have hlt : i + 1 < s.mprog.length := lt_length_of_drop_eq hdrop
    obtain ⟨q', cs', hsent, hdepth', hall⟩ := reaches_sent h hop hlt hdepth cs tr
    obtain ⟨tr', hrest⟩ := ih (i + 1) q' cs' _ hdepth' hdrop
    rw [hall, Nat.add_right_comm] at hrest
    exact ⟨tr', hsent.trans hrest⟩

/-- END's turn, once the queue is empty: the chain latches, then the completion check (R105, R107). -/
theorem reaches_latched {i : Nat} {cs : List Chip} (hop : s.mprog[i]? = some .endTxn) (hN : s.N = cs.length)
    (tr : List Event) : ∃ cs' k, Reaches (s.midway i [] cs tr) (s.latchedAt (i + 1) cs' (tr ++ [.selHigh]) k).finish ∧
      List.Forall₂ Latched cs cs' := by
  have hd := h.midway i [] cs tr
  obtain ⟨cs', k, hedge, hl⟩ := latchEdge_latched
    (s := { (s.midway i [] cs tr).emit .selHigh with cs := true, mpc := i + 1 }) hN
  refine ⟨cs', k, .of_step ?_, hl⟩
  exact (step_turnOf hd.rst (hd.turnOf_engine hop hd.txBusy_eq)).trans
    (engineTurn_endTxn hd.phase hop hd.txBusy_eq hedge)

/-- A whole transaction: its frames are shifted in, and at its END every chip latches (R103 to R107). -/
theorem reaches_transaction {fs : List Frame} {rest : List MicroOp} (hq : s.queue = []) (hN : s.lengthMatches)
    (hprog : s.mprog.drop s.mpc = txn fs ++ rest) :
    ∃ cs tr k, Reaches s (s.latchedAt (s.mpc + (txn fs).length) cs tr k).finish ∧
      List.Forall₂ Latched (shiftAll fs s.chips) cs := by
  obtain ⟨hop, hdrop⟩ := of_drop_eq_cons (hprog.trans (txn_append fs rest))
  have hbusy : s.txBusy = false := by simp [h.txBusy_eq, hq]
  have hlt : s.mpc + 1 < s.mprog.length := lt_length_of_drop_eq hdrop
  obtain ⟨-, hbegin, -⟩ := beginDrivesSelectLow s s h.rst (h.turnOf_engine hop hbusy) h.phase hop hlt
  have hb : ({ s with cs := false } : State).Driving := ⟨h.rst, h.sched, h.stalled, h.phase, h.depth⟩
  obtain ⟨tr, hsends⟩ := reaches_sends hb fs (s.mpc + 1) s.queue s.chips (s.trace ++ [.selLow]) (by simp [hq]) hdrop
  have hend : s.mprog[s.mpc + 1 + fs.length]? = some .endTxn := by rw [← List.getElem?_drop, hdrop]; simp
  obtain ⟨cs, k, hlatch, hl⟩ := reaches_latched hb hend (hN.trans (shiftAll_length fs s.chips).symm) tr
  have hsent : s.queue ++ fs = fs := by rw [hq, List.nil_append]
  have hmpc : s.mpc + 1 + fs.length + 1 = s.mpc + (txn fs).length := by rw [txn_length]; omega
  rw [hsent] at hsends
  rw [hmpc] at hlatch
  exact ⟨cs, _, k, (Reaches.of_step (hbegin hbusy)).trans (hsends.trans hlatch), hl⟩

end Transaction

/-! ## What a transaction leaves in the chip registers -/

/-- The frame's register address is in the register map (R96). -/
abbrev mappedFrame (f : Frame) : Prop := frameAddr f ≠ 0xD#4 ∧ frameAddr f ≠ 0xE#4

/-- What the register `a` that holds `b` holds after its chip has latched `f` (R107); where there is no register there is
none afterwards. -/
def latchByte (a : BitVec 4) (b : Option Byte) (f : Frame) : Option Byte :=
  if a = frameAddr f then b.map fun _ => frameData f else b

@[simp] theorem latchByte_none (a : BitVec 4) (f : Frame) : latchByte a none f = none := by simp [latchByte]

theorem Latched.chipReg_eq {c c' : Chip} (h : Latched c c') (hf : mappedFrame c.shift) (a : BitVec 4) :
    chipReg c' a = latchByte a (chipReg c a) c.shift := by
  rw [h.regs hf.1 hf.2, latchByte]
  by_cases ha : a = 0
  · simp [chipReg, ha]
  · obtain ⟨b, hb⟩ := Option.isSome_iff_exists.1 ((chipReg_isSome c a).2 ha)
    rw [hb]
    exact if_congr (and_iff_right ha) rfl rfl

/-- After a transaction of `N` frames the chip at position `p` has latched the frame of slot `N - p`, from 0 (R107). -/
theorem chipReg_latched {s t : State} {fs : List Frame} (hN : s.lengthMatches) (hlen : fs.length = s.N)
    (hmap : ∀ f ∈ fs, mappedFrame f) (hl : List.Forall₂ Latched (shiftAll fs s.chips) t.chips) (p : Nat) (a : BitVec 4) :
    t.chipReg p a = latchByte a (s.chipReg p a) (fs.getD (s.N - p) noopFrame) := by
  cases p with
  | zero => simp [State.chipReg, State.chipAt]
  | succ q =>
    have hlen' : s.chips.length = t.chips.length := by simpa using hl.length_eq
    cases hc : s.chips[q]? with
    | none =>
      have ht : t.chips[q]? = none := by simpa [← hlen'] using hc
      simp [State.chipReg, State.chipAt, hc, ht]
    | some c =>
      have hshifted := shiftAll_getElem? (hlen.trans hN) hc
      rw [← hN] at hshifted
      obtain ⟨hlt, -⟩ := List.getElem?_eq_some_iff.1 hc
      obtain ⟨hi, hget⟩ := List.getElem?_eq_some_iff.1 hshifted
      have hlatched := (List.forall₂_iff_get.1 hl).2 q hi (hlen' ▸ hlt)
      rw [List.get_eq_getElem, hget] at hlatched
      have hmem : fs.getD (s.N - (q + 1)) noopFrame ∈ fs := by
        rw [List.getD_eq_getElem _ _ (by omega)]; exact List.getElem_mem _
      simp only [State.chipReg, State.chipAt, hc, List.getElem?_eq_getElem (hlen' ▸ hlt), Option.bind_some]
      exact hlatched.chipReg_eq (hmap _ hmem) a

/-- A position outside the chain has no register. -/
theorem chipReg_outside {s : State} {p : Nat} (h : ¬ (1 ≤ p ∧ p ≤ s.chips.length)) (a : BitVec 4) :
    s.chipReg p a = none := by
  cases p with
  | zero => rfl
  | succ q => simp [State.chipReg, State.chipAt, List.getElem?_eq_none (show s.chips.length ≤ q by omega)]

/-- Every chip of the chain has a register for every address but 0 (R39(c)). -/
theorem exists_chipReg {s : State} {p : Nat} (hp : 1 ≤ p) (hpN : p ≤ s.chips.length) {a : BitVec 4} (ha : a.toNat ≠ 0) :
    ∃ b, s.chipReg p a = some b := by
  obtain ⟨q, rfl⟩ := Nat.exists_eq_add_of_le' hp
  have ha' : a ≠ 0 := fun h => ha (by rw [h]; rfl)
  obtain ⟨b, hb⟩ := Option.isSome_iff_exists.1 ((chipReg_isSome s.chips[q] a).2 ha')
  exact ⟨b, by simp [State.chipReg, State.chipAt, List.getElem?_eq_getElem hpN, hb]⟩

theorem foldl_latchByte_none {α : Type} (a : BitVec 4) (g : α → Frame) (l : List α) :
    l.foldl (fun b x => latchByte a b (g x)) none = none := by
  induction l with
  | nil => rfl
  | cons x l ih => rw [List.foldl_cons, latchByte_none, ih]

/-! ## A micro-program made of transactions -/

/-- A command whose micro-program is transactions of `N` mapped frames completes with OK, and each register has taken the
frames of its chip's slot one after the other. -/
theorem reaches_completion (txns : List (List Frame)) (hne : txns ≠ []) : ∀ s : State, s.Driving → s.queue = [] →
    s.lengthMatches → s.mprog.drop s.mpc = txns.flatMap txn →
    (∀ fs ∈ txns, fs.length = s.N ∧ ∀ f ∈ fs, mappedFrame f) →
    ∃ i cs tr k, Reaches s ((s.latchedAt i cs tr k).complete .ok) ∧ ∀ p a, (s.latchedAt i cs tr k).chipReg p a =
      txns.foldl (fun b fs => latchByte a b (fs.getD (s.N - p) noopFrame)) (s.chipReg p a) := by
  induction txns with
  | nil => exact absurd rfl hne
  | cons fs txns ih =>
    intro s h hq hN hprog hok
    obtain ⟨hlen, hmap⟩ := hok fs List.mem_cons_self
    obtain ⟨cs, tr, k, hreach, hl⟩ := reaches_transaction h hq hN hprog
    have hregs := chipReg_latched (t := s.latchedAt (s.mpc + (txn fs).length) cs tr k) hN hlen hmap hl
    have hdrop : s.mprog.drop (s.mpc + (txn fs).length) = txns.flatMap txn := by
      rw [← List.drop_drop, hprog, List.flatMap_cons, List.drop_left]
    have hcount : s.mpc + (txn fs).length + (txns.flatMap txn).length = s.mprog.length := by
      have hlen := congrArg List.length hprog
      simp only [List.length_drop, List.flatMap_cons, List.length_append, txn_length] at hlen ⊢
      omega
    cases txns with
    | nil =>
      rw [finish_of_eq hcount] at hreach
      exact ⟨_, cs, tr, k, hreach, hregs⟩
    | cons gs txns =>
      have hlt : s.mpc + (txn fs).length < s.mprog.length := by
        simp only [List.flatMap_cons, List.length_append, txn_length] at hcount ⊢
        omega
      rw [finish_of_lt hlt] at hreach
      obtain ⟨i, cs', tr', k', hrest, hregs'⟩ := ih (List.cons_ne_nil _ _)
        (s.latchedAt (s.mpc + (txn fs).length) cs tr k) ⟨h.rst, h.sched, h.stalled, h.phase, h.depth⟩ rfl
        (hN.trans ((shiftAll_length fs s.chips).symm.trans hl.length_eq)) hdrop
        fun fs' hfs' => hok fs' (List.mem_cons_of_mem _ hfs')
      refine ⟨i, cs', tr', k', hreach.trans hrest, fun p a => ?_⟩
      rw [List.foldl_cons, ← hregs p a]
      exact hregs' p a

end Sys2Proof.Machine
end

section
/-!
PROOFS. The statements on REFRESH (44_refresh.md). Its frames are the walk read in logical order; that they reach the chips is
`reaches_completion` for its eight transactions.
-/

namespace Sys2Proof.Machine

/-! ## The frames and the micro-program of REFRESH -/

/-- The walk in logical order: the frame for physical position `n - k` is the `k`-th (R140). -/
theorem walk_eq_map_range (g : Nat → Frame) (n : Nat) : walk g n = (List.range n).map fun k => g (n - k) := by
  refine List.ext_getElem? fun k => ?_
  rw [walk_getElem?]
  by_cases hk : k < n <;> simp [hk]

theorem rowFrames_eq_map_range (s : State) (r : Nat) :
    s.rowFrames r = (List.range s.N).map fun k => frame (digitReg r) (s.fbByte (k * 8 + r)) := by
  rw [State.rowFrames, walk_eq_map_range]
  refine List.map_congr_left fun k hk => ?_
  rw [logicalOffset, Nat.sub_sub_self (List.mem_range.1 hk).le]

@[simp] theorem rowFrames_length (s : State) (r : Nat) : (s.rowFrames r).length = s.N := walk_length _ _

theorem rowFrames_getElem? {s : State} {k : Nat} (r : Nat) (hk : k < s.N) :
    (s.rowFrames r)[k]? = some (frame (digitReg r) (s.fbByte (k * 8 + r))) := by
  simp [rowFrames_eq_map_range, hk]

theorem refreshProgram_ne_nil (s : State) : s.refreshProgram ≠ [] := List.cons_ne_nil _ _

/-- REFRESH in a configured engine in IDLE starts its micro-program (R181). -/
theorem exec_refresh_configured {s : State} (hp : s.phase = .idle) (hc : s.configured = true) :
    exec .refresh s = .next { s with phase := .exec, mprog := s.refreshProgram, mpc := 0 } := by
  refine (needConfigured_idle _ hp hc).trans ?_
  rw [runProgram_of_ne_nil (refreshProgram_ne_nil s)]

/-- Settles O31: each row's walk read in logical order. -/
theorem refreshProgramIsTheEightRows : Obligations.RefreshProgramIsTheEightRows := by
  intro s hp hc
  have hprog : s.refreshProgram = (List.range 8).flatMap fun r =>
      [.beginTxn] ++ (List.range s.N).map (fun k => .send (frame (BitVec.ofNat 4 (r + 1)) (s.fbByte (8 * k + r)))) ++
        [.endTxn] := by
    refine List.flatMap_congr fun r _ => ?_
    simp [txn, rowFrames_eq_map_range, digitReg, Nat.mul_comm 8]
  rw [exec_refresh_configured hp hc, hprog]

/-! ## Counts and frame order (R182, R183) -/

/-- Blocks of one length: the `j`-th item is the `j mod n`-th of block `j div n`. -/
theorem getElem?_flatMap_range {α : Type} {g : Nat → List α} {n : Nat} (hg : ∀ r, (g r).length = n) (m : Nat) {j : Nat}
    (hj : j < m * n) : ((List.range m).flatMap g)[j]? = (g (j / n))[j % n]? := by
  induction m with
  | zero => omega
  | succ m ih =>
    have hlen : ((List.range m).flatMap g).length = m * n := by simp [List.length_flatMap, hg]
    rw [List.range_succ, List.flatMap_append, List.flatMap_singleton]
    by_cases hjm : j < m * n
    · rw [List.getElem?_append_left (hlen ▸ hjm), ih hjm]
    · have hdiv : j / n = m := Nat.div_eq_of_lt_le (Nat.le_of_not_lt hjm) hj
      have hmod : j % n = j - m * n := by rw [Nat.mod_eq_sub, hdiv, Nat.mul_comm]
      rw [List.getElem?_append_right (by omega), hlen, hdiv, hmod]

theorem txn_count_beginTxn (fs : List Frame) : (txn fs).count .beginTxn = 1 := by
  simp [txn, List.count_eq_zero]

theorem txn_count_endTxn (fs : List Frame) : (txn fs).count .endTxn = 1 := by
  simp [txn, List.count_eq_zero]

theorem sends_refreshProgram (s : State) : sends s.refreshProgram = (List.range 8).flatMap s.rowFrames :=
  sends_flatMap_txn _ _

/-- Settles O32: eight transactions of `N` frames each, the `j`-th frame in row `j div N`. -/
theorem refreshCountsAndFrameOrder : Obligations.RefreshCountsAndFrameOrder := by
  intro s hp hc
  refine ⟨_, exec_refresh_configured hp hc, ?_, ?_, ?_, gateRun_refreshProgram s, ?_, fun j hj => ?_⟩
  · simp [State.refreshProgram, List.length_flatMap]
  · simp [State.refreshProgram, List.count_flatMap, Function.comp_def, txn_count_beginTxn]
  · simp [State.refreshProgram, List.count_flatMap, Function.comp_def, txn_count_endTxn]
  · simp [sends_refreshProgram, List.length_flatMap]; omega
  · have hN : 0 < s.N := by omega
    rw [sends_refreshProgram, getElem?_flatMap_range (rowFrames_length s) 8 hj, rowFrames_getElem? _ (Nat.mod_lt j hN)]

/-! ## REFRESH from its header to its completion (R184) -/

theorem digitReg_toNat {r : Nat} (hr : r < 8) : (digitReg r).toNat = r + 1 := by
  rw [digitReg, BitVec.toNat_ofNat]; omega

theorem mappedFrame_digit {r : Nat} (hr : r < 8) (b : Byte) : mappedFrame (frame (digitReg r) b) := by
  have h := digitReg_toNat hr
  have hne : ∀ a : BitVec 4, 8 < a.toNat → digitReg r ≠ a := fun a ha ha' => by rw [← ha', h] at ha; omega
  rw [mappedFrame, frameAddr_frame]
  exact ⟨hne _ (by decide), hne _ (by decide)⟩

/-- The rows 0 to `m - 1` latched one after the other: digit register `r + 1` holds row `r`'s byte. -/
theorem foldl_latchByte_digits (v : Nat → Byte) (a : BitVec 4) (b : Option Byte) {m : Nat} (hm : m ≤ 8) :
    (List.range m).foldl (fun b r => latchByte a b (frame (digitReg r) (v r))) b =
      if a.toNat = 0 ∨ m < a.toNat then b else b.map fun _ => v (a.toNat - 1) := by
  induction m with
  | zero => rw [if_pos (by omega)]; rfl
  | succ m ih =>
    have hreg := digitReg_toNat hm
    rw [List.range_succ, List.foldl_append, ih (by omega), List.foldl_cons, List.foldl_nil, latchByte, frameAddr_frame,
      frameData_frame]
    by_cases ha : a = digitReg m
    · subst ha; simp [hreg]
    · have ha' : a.toNat ≠ m + 1 := fun h => ha (BitVec.eq_of_toNat_eq (h.trans hreg.symm))
      rw [if_neg ha]
      exact if_congr (by omega) rfl rfl

/-- REFRESH's header, presented in IDLE, starts its micro-program (R34, R181). -/
theorem step_refreshHeader {s : State} {hs : List HostAction} (hr : s.rst = false) (hsched : s.sched = [])
    (hq : s.queue = []) (hp : s.phase = .idle) (hc : s.configured = true)
    (hhost : s.host = .word 0x6000000000000000#64 :: hs) :
    step s = .next { s with host := hs, phase := .exec, mprog := s.refreshProgram, mpc := 0 } := by
  have hturn : s.turnOf = (.host, s) := by
    simp [State.turnOf, hsched, State.defaultAgent, State.engineReady, State.transportReady, hp, hq]
  have hdecode : decode 0x6000000000000000#64 = .ok .refresh := by decide
  rw [step_word_idle hr hturn hhost hp, acceptHeader_of_ok _ hdecode]
  exact exec_refresh_configured (s := { s with host := hs }) hp hc

/-- What the eight rows leave in the registers of the chip at position `p`. -/
theorem foldl_latchByte_rowFrames {s : State} {p : Nat} (hp : 1 ≤ p) (hpN : p ≤ s.N) (a : BitVec 4) (b : Option Byte) :
    ((List.range 8).map s.rowFrames).foldl (fun b fs => latchByte a b (fs.getD (s.N - p) noopFrame)) b =
      if a.toNat = 0 ∨ 8 < a.toNat then b else b.map fun _ => s.fbByte ((s.N - p) * 8 + (a.toNat - 1)) := by
  have hslot : ∀ r, (s.rowFrames r).getD (s.N - p) noopFrame =
      frame (digitReg r) (s.fbByte ((s.N - p) * 8 + r)) := fun r => by
    rw [List.getD_eq_getElem?_getD, rowFrames_getElem? r (by omega), Option.getD_some]
  rw [List.foldl_map]
  simp only [hslot]
  exact foldl_latchByte_digits (fun r => s.fbByte ((s.N - p) * 8 + r)) a b le_rfl

/-- Settles O58: the header's step, then the eight transactions of its micro-program, row after row. -/
theorem refreshReachesTheChips : Obligations.RefreshReachesTheChips := by
  intro s hs hinv hr hstalled hsched hq hp hc hN hhost
  have hheader := step_refreshHeader hr hsched hq hp hc hhost
  have hprog : s.refreshProgram = ((List.range 8).map s.rowFrames).flatMap txn := (List.flatMap_map ..).symm
  have hok : ∀ fs ∈ (List.range 8).map s.rowFrames, fs.length = s.N ∧ ∀ f ∈ fs, mappedFrame f := fun fs hfs => by
    obtain ⟨r, hr8, rfl⟩ := List.mem_map.1 hfs
    refine ⟨rowFrames_length s r, fun f hf => ?_⟩
    obtain ⟨p, rfl⟩ := exists_of_mem_walk hf
    exact mappedFrame_digit (List.mem_range.1 hr8) _
  obtain ⟨⟨-, -, hdepth⟩, -⟩ := hinv.config
  obtain ⟨i, cs, tr, k, hreach, hregs⟩ := reaches_completion _ (by simp)
    { s with host := hs, phase := .exec, mprog := s.refreshProgram, mpc := 0 }
    ⟨hr, hsched, hstalled, rfl, hdepth⟩ hq hN hprog hok
  obtain ⟨n, hrun⟩ := (Reaches.of_step hheader).trans hreach
  refine ⟨n, _, hrun, rfl, rfl, rfl, rfl, fun p r hp1 hpN hr8 => ?_, fun p a ha => ?_⟩
  · have hreg : (BitVec.ofNat 4 (r + 1)).toNat = r + 1 := digitReg_toNat hr8
    obtain ⟨b, hb⟩ := exists_chipReg (s := s) hp1 (hN ▸ hpN) (a := BitVec.ofNat 4 (r + 1)) (by simp [hreg])
    refine (hregs p _).trans ((foldl_latchByte_rowFrames hp1 hpN _ _).trans ?_)
    rw [if_neg (by omega), hreg, Nat.add_sub_cancel]
    exact congrArg (Option.map _) hb
  · refine (hregs p a).trans ?_
    by_cases hpos : 1 ≤ p ∧ p ≤ s.N
    · exact (foldl_latchByte_rowFrames hpos.1 hpos.2 _ _).trans (if_pos ha)
    · have hnone : s.chipReg p a = none := chipReg_outside (hN ▸ hpos) a
      exact (congrArg (List.foldl _ · _) hnone).trans ((foldl_latchByte_none a _ _).trans hnone.symm)

end Sys2Proof.Machine
end

section
/-!
PROOFS. The statements on the reset (70_reset_and_hazards.md). Reset's effect on the chips and the trace is told by
`State.applyReset_chips` and `State.applyReset_trace`; the fields it keeps at either level of the select line stand here.
-/

namespace Sys2Proof.Machine

/-- An asserted reset is the step, whatever the schedule says (R208, R230). -/
theorem step_reset {s : State} (hr : s.rst = true) : step s = .next s.applyReset := if_pos hr

/-! ## What a reset keeps, at either level of the select line (logs 11, 23) -/

section Kept

variable (s : State)

@[simp] theorem State.applyReset_queue : s.applyReset.queue = s.queue := by
  unfold State.applyReset; cases s.cs <;> rfl

@[simp] theorem State.applyReset_host : s.applyReset.host = s.host := by
  unfold State.applyReset; cases s.cs <;> rfl

@[simp] theorem State.applyReset_sched : s.applyReset.sched = s.sched := by
  unfold State.applyReset; cases s.cs <;> rfl

@[simp] theorem State.applyReset_params : s.applyReset.params = s.params := by
  unfold State.applyReset; cases s.cs <;> rfl

/-- The open chip registers of R231 are no part of the shift registers. -/
theorem State.applyReset_shifts : s.applyReset.chips.map Chip.shift = s.chips.map Chip.shift := by
  rw [State.applyReset_chips]
  split
  · rfl
  · exact forgetRegs_shifts _ _

end Kept

/-- Settles O48: the step is `applyReset`, which writes R41's values whatever the select line is; of the fields the
statement names, only the trace and the chips depend on its level. -/
theorem resetWinsAndResets : Obligations.ResetWinsAndResets := by
  intro s hr
  have hfb : ∀ i, fbLookup s.applyReset.fb i = none := fun _ => rfl
  have hchips : s.cs = true → s.applyReset.chips = s.chips := fun h => s.applyReset_chips.trans (if_pos h)
  exact ⟨_, step_reset hr, rfl, rfl, rfl, rfl, rfl, rfl, rfl, rfl, rfl, rfl, hfb, s.applyReset_trace,
    s.applyReset_queue, s.applyReset_host, s.applyReset_sched, s.applyReset_params, s.applyReset_shifts, hchips⟩

end Sys2Proof.Machine
end

section
/-!
PROOFS. The encoder and the decoder are inverse to each other (30_encoding.md). A header is put together from its fields and
taken apart into them, and so are its low word and a frame; the decoder's inverse goes by opcode, a frame's by register
address.
-/

namespace Sys2Proof

/-! ## Fields of the low word (R72) -/

section LowWord

variable (op : BitVec 4) (m : BitVec 1) (a : BitVec 24)

@[simp] theorem lField_header (l : BitVec 24) (v : Byte) : lField (header op m a (l ++ v)) = l := by
  rw [lField_eq, lowField_header, extract_append_high]

@[simp] theorem vField_header (l : BitVec 24) (v : Byte) : vField (header op m a (l ++ v)) = v := by
  rw [vField_eq, lowField_header, extract_append_low]

@[simp] theorem highHalf_header (h : BitVec 16) (f : Frame) : highHalf (header op m a (h ++ f)) = h := by
  rw [highHalf_eq, lowField_header, extract_append_high]

@[simp] theorem fField_header (h : BitVec 16) (f : Frame) : fField (header op m a (h ++ f)) = f := by
  rw [fField_eq, lowField_header, extract_append_low]

end LowWord

/-! ## Words put together again from their fields -/

/-- A header without reserved bits is its four fields (R71). -/
theorem header_of_fields {w : CmdWord} (hrsv : rsvField w = 0) :
    header (opField w) (modeField w) (aField w) (lowField w) = w := by
  apply BitVec.eq_of_toNat_eq
  have hrsv' : (rsvField w).toNat = 0 := by rw [hrsv]; rfl
  have := w.isLt
  simp only [rsvField, toNat_extract] at hrsv'
  simp only [header_toNat, opField, modeField, aField, lowField, toNat_extract]
  omega

/-- The low word of format U (R72). -/
theorem lField_append_vField (w : CmdWord) : lField w ++ vField w = lowField w := by
  apply BitVec.eq_of_toNat_eq
  simp only [toNat_append_mul, lField, vField, lowField, toNat_extract]
  omega

/-- The low word of formats W and B (R72). -/
theorem highHalf_append_fField (w : CmdWord) : highHalf w ++ fField w = lowField w := by
  apply BitVec.eq_of_toNat_eq
  simp only [toNat_append_mul, highHalf, fField, lowField, toNat_extract]
  omega

/-- A 24-bit field read as a number and written again (R72, R73). -/
theorem field24_toNat_eq (a : BitVec 24) : field24 a.toNat = a := by
  rw [field24, BitVec.ofNat_toNat, BitVec.setWidth_eq]

/-- A frame is its three fields (R80). -/
theorem rawFrame_of_fields (f : Frame) : rawFrame (frameDontcare f) (frameAddr f) (frameData f) = f := by
  apply BitVec.eq_of_toNat_eq
  have := f.isLt
  simp only [rawFrame_toNat, frameDontcare, frameAddr, frameData, toNat_extract]
  omega

/-! ## Decoding an encoding -/

/-- Settles O1: a command's fields meet its opcode's equation of the decoder, a frame's address picks its row. -/
theorem decodeOfEncodeIsIdentity : Obligations.DecodeOfEncodeIsIdentity := by
  intro i h
  cases i with
  | configure n =>
    have hn := field24_toNat (of_decide_eq_true h)
    simp [decodeWord, encode, decode_configure, hn]
  | teardown => simp [decodeWord, encode, decode_teardown]
  | writeRegister k f =>
    have hk := field24_toNat (of_decide_eq_true h)
    simp [decodeWord, encode, decode_writeRegister, hk]
  | writeAllRegisters f => simp [decodeWord, encode, decode_writeAllRegisters]
  | updateBufferReplicate c l v =>
    obtain ⟨hc, hl⟩ : c < fieldBound ∧ l < fieldBound := by simpa [Instr.wellFormed] using h
    simp [decodeWord, encode, decode_updateBuffer, field24_toNat hc, field24_toNat hl]
  | updateBufferSequence c l =>
    obtain ⟨hc, hl⟩ : c < fieldBound ∧ l < fieldBound := by simpa [Instr.wellFormed] using h
    exact decode_sequenceHeader hc hl
  | refresh => simp [decodeWord, encode, decode_refresh]
  | _ => simp [decodeWord, encode, decodeFrame]

/-! ## Encoding what was decoded -/

/-- A header that decodes is the encoding of its instruction, opcode by opcode (R76 to R78). -/
theorem encode_of_decode {w : CmdWord} {i : Instr} (h : decode w = .ok i) :
    i.wellFormed = true ∧ encode i = .command w := by
  have hrsv : rsvField w = 0 := by
    by_contra hne
    rw [decode_of_rsvField_ne_zero hne] at h
    cases h
  have hw := header_of_fields hrsv
  have ha : (aField w).toNat < fieldBound := (aField w).isLt
  have hl : (lField w).toNat < fieldBound := (lField w).isLt
  obtain hop | hop | hop | hop | hop | hop | hop := opField_cases w
  · rw [decode_reservedOpcode hrsv hop] at h
    cases h
  · obtain ⟨hm, hlow, rfl⟩ : modeField w = 0 ∧ lowField w = 0 ∧ .configure (aField w).toNat = i := by
      simpa [decode_configure hrsv hop, ite_eq_iff] using h
    rw [hop, hm, hlow] at hw
    exact ⟨by simpa [Instr.wellFormed] using ha, by rw [encode, field24_toNat_eq]; exact congrArg _ hw⟩
  · obtain ⟨hm, ⟨ha0, hlow⟩, rfl⟩ : modeField w = 0 ∧ (aField w = 0 ∧ lowField w = 0) ∧ .teardown = i := by
      simpa [decode_teardown hrsv hop, ite_eq_iff] using h
    rw [hop, hm, ha0, hlow] at hw
    exact ⟨rfl, congrArg _ hw⟩
  · obtain ⟨hm, hhigh, rfl⟩ : modeField w = 0 ∧ highHalf w = 0 ∧ .writeRegister (aField w).toNat (fField w) = i := by
      simpa [decode_writeRegister hrsv hop, ite_eq_iff] using h
    rw [hop, hm, ← highHalf_append_fField, hhigh] at hw
    exact ⟨by simpa [Instr.wellFormed] using ha, by rw [encode, field24_toNat_eq]; exact congrArg _ hw⟩
  · obtain ⟨hm, ⟨ha0, hhigh⟩, rfl⟩ :
        modeField w = 0 ∧ (aField w = 0 ∧ highHalf w = 0) ∧ .writeAllRegisters (fField w) = i := by
      simpa [decode_writeAllRegisters hrsv hop, ite_eq_iff] using h
    rw [hop, hm, ha0, ← highHalf_append_fField, hhigh] at hw
    exact ⟨rfl, congrArg _ hw⟩
  · rw [decode_updateBuffer hrsv hop] at h
    rw [hop, ← lField_append_vField] at hw
    split at h
    · next hm =>
      cases h
      rw [hm] at hw
      exact ⟨by simpa [Instr.wellFormed] using ⟨ha, hl⟩, by
        rw [encode, field24_toNat_eq, field24_toNat_eq]; exact congrArg _ hw⟩
    · next hm =>
      obtain ⟨hv, rfl⟩ : vField w = 0 ∧ .updateBufferSequence (aField w).toNat (lField w).toNat = i := by
        simpa [ite_eq_iff] using h
      rw [(BitVec.eq_zero_or_eq_one _).resolve_left hm, hv] at hw
      exact ⟨by simpa [Instr.wellFormed] using ⟨ha, hl⟩, by
        rw [encode, field24_toNat_eq, field24_toNat_eq]; exact congrArg _ hw⟩
  · obtain ⟨hm, ⟨ha0, hlow⟩, rfl⟩ : modeField w = 0 ∧ (aField w = 0 ∧ lowField w = 0) ∧ .refresh = i := by
      simpa [decode_refresh hrsv hop, ite_eq_iff] using h
    rw [hop, hm, ha0, hlow] at hw
    exact ⟨rfl, congrArg _ hw⟩

/-- A frame that decodes is the encoding of its instruction, address by address (R80 to R95). -/
theorem encode_of_decodeFrame {f : Frame} {i : Instr} (h : decodeFrame f = .ok i) :
    i.wellFormed = true ∧ encode i = .frame f := by
  have hf := rawFrame_of_fields f
  simp only [decodeFrame] at h
  split at h <;> cases h
  all_goals
    next haddr =>
      rw [(BitVec.toNat_eq_nat.1 haddr).2] at hf
      exact ⟨rfl, congrArg _ hf⟩

/-- Settles O2: command headers and frames are the two kinds of word. -/
theorem encodeOfDecodeIsIdentity : Obligations.EncodeOfDecodeIsIdentity := by
  intro c i h
  cases c with
  | command w => exact encode_of_decode h
  | frame f => exact encode_of_decodeFrame h

/-! ## Payload words, the register map and the worked words -/

/-- Settles O6: the eight lanes by position, the packing by the lanes of its words. -/
theorem payloadLanesAreTheBytes : Obligations.PayloadLanesAreTheBytes := by
  refine ⟨fun w j hj => ?_, fun bytes => ⟨packPayload_length bytes, take_flatMap_lanes_packPayload bytes⟩⟩
  interval_cases j <;> rfl

/-- The only error of the frame decoder (R96). -/
theorem decodeFrame_error {f : Frame} {e : DecodeError} (h : decodeFrame f = .error e) : e = .unmappedRegister := by
  simp only [decodeFrame] at h
  split at h <;> cases h
  rfl

/-- The frames with no row are those of register address 0xD and 0xE (R96). -/
theorem decodeFrame_unmapped_iff (f : Frame) :
    decodeFrame f = .error .unmappedRegister ↔ frameAddr f = 0xD#4 ∨ frameAddr f = 0xE#4 := by
  refine ⟨Machine.frameAddr_of_decodeFrame_error, ?_⟩
  rintro (h | h) <;> simp [decodeFrame, h]

/-- Settles O7: the two unmapped addresses, the one error, and the fields of a frame put together from its fields. -/
theorem framesOutsideTheRegisterMap : Obligations.FramesOutsideTheRegisterMap :=
  ⟨decodeFrame_unmapped_iff, fun _ _ => decodeFrame_error, fun z a d =>
    ⟨frameDontcare_rawFrame z a d, frameAddr_rawFrame z a d, frameData_rawFrame z a d⟩⟩

/-- Settles O5: each word evaluated through the decoder. -/
theorem vectorWordsDecode : Obligations.VectorWordsDecode :=
  ⟨rfl, rfl, rfl, rfl, rfl, rfl, rfl, rfl⟩

end Sys2Proof
end

section
/-!
PROOFS. Single commands, frames and turns: the STATUS word's fields, CONFIGURE, TEARDOWN and the chip writes as the spec
writes their micro-programs, the effect of one frame on its chip, the host's turns, the reset state.
-/

namespace Sys2Proof.Machine

/-! ## The STATUS word (R29) -/

/-- STATUS as a number: its fields one above the other. -/
theorem State.status_toNat (s : State) : s.status.toNat =
    (((s.N % 2 ^ 24 * 16 + s.fault.code.toNat) * 4 + s.result.code.toNat) * 2 + s.configured.toNat) * 2 +
      s.busy.toNat := by
  simp only [State.status, toNat_append_mul, BitVec.toNat_ofNat, BitVec.toNat_ofBool]
  omega

section StatusFields

variable (s : State)

theorem status_chainLen : (s.status.extractLsb' 8 24).toNat = s.N % 2 ^ 24 := by
  have := s.fault.code.isLt; have := s.result.code.isLt; have := s.configured.toNat_lt; have := s.busy.toNat_lt
  rw [toNat_extract, State.status_toNat]; omega

theorem status_fault : s.status.extractLsb' 4 4 = s.fault.code := by
  apply BitVec.eq_of_toNat_eq
  have := s.fault.code.isLt; have := s.result.code.isLt; have := s.configured.toNat_lt; have := s.busy.toNat_lt
  rw [toNat_extract, State.status_toNat]; omega

theorem status_result : s.status.extractLsb' 2 2 = s.result.code := by
  apply BitVec.eq_of_toNat_eq
  have := s.result.code.isLt; have := s.configured.toNat_lt; have := s.busy.toNat_lt
  rw [toNat_extract, State.status_toNat]; omega

theorem status_configured : s.status.extractLsb' 1 1 = BitVec.ofBool s.configured := by
  apply BitVec.eq_of_toNat_eq
  have := s.configured.toNat_lt; have := s.busy.toNat_lt
  rw [toNat_extract, State.status_toNat, BitVec.toNat_ofBool]; omega

theorem status_busy : s.status.extractLsb' 0 1 = BitVec.ofBool s.busy :=
  extract_append_low _ _

end StatusFields

/-- No fault is recorded exactly if the code is 0 (R28). -/
theorem faultCode_eq_zero_iff (c : FaultCode) : c.code = 0#4 ↔ c = .none := by
  cases c <;> decide

theorem busy_iff (s : State) : s.busy = true ↔ s.phase = .collect ∨ s.phase = .exec := by
  simp [State.busy]

/-- A configured length fits the STATUS field (R10, R11). -/
theorem State.Inv.N_lt {s : State} (h : s.Inv) : s.N < 2 ^ 24 := by
  obtain ⟨⟨-, hmax, -⟩, -⟩ := h.config
  obtain ⟨h1, h0⟩ := h.config.range
  cases hc : s.configured
  · simp [h0 hc]
  · have := (h1 hc).2
    omega

/-- A fault is recorded exactly in FAULTED (R28, R205). -/
theorem State.Inv.fault_iff {s : State} (h : s.Inv) : s.fault ≠ .none ↔ s.phase = .faulted := by
  cases hp : s.phase with
  | idle => simp [(h.idle hp).2.1]
  | collect => simp [(h.collect hp).1]
  | exec => simp [(h.exec hp).2.1]
  | faulted => simp [(h.faulted hp).2.1]

/-- Settles O9: each field of the concatenation, with the invariant's bound on `N` and its tie of FAULT to the phase. -/
theorem statusWordFields : Obligations.StatusWordFields := by
  intro s hinv
  refine ⟨?_, ?_, ?_, ?_, ?_, ?_⟩
  · rw [status_chainLen, Nat.mod_eq_of_lt hinv.N_lt]
  · rw [status_fault]; cases s.fault <;> rfl
  · rw [status_result]; cases s.result <;> rfl
  · rw [status_configured]; cases s.configured <;> decide
  · rw [status_busy, ← busy_iff]; cases s.busy <;> decide
  · rw [status_fault, ne_eq, faultCode_eq_zero_iff, ← hinv.fault_iff]

/-! ## The lifecycle and write commands -/

/-- A broadcast written out (R109). -/
theorem broadcast_eq (n : Nat) (f : Frame) :
    broadcast n f = [.beginTxn] ++ List.replicate n (.send f) ++ [.endTxn] := by
  simp [broadcast, txn]

/-- The addressed write's transaction written out (R141). -/
theorem txn_addressedFrames (n k : Nat) (f : Frame) : txn (addressedFrames n k f) =
    [.beginTxn] ++ (List.range n).map (fun j => .send (if j = k then f else 0x0000#16)) ++ [.endTxn] := by
  have hframes : addressedFrames n k f = (List.range n).map fun j => if j = k then f else noopFrame := by
    rw [addressedFrames, walk_eq_map_range]
    refine List.map_congr_left fun j hj => ?_
    rw [logicalOffset, Nat.sub_sub_self (List.mem_range.1 hj).le]
  simp [txn, hframes, noopFrame]

/-- Settles O13: CONFIGURE's equation within capacity, the zero fill read back, its micro-program written out. -/
theorem configureConfigures : Obligations.ConfigureConfigures := by
  rintro s n m rfl hp hc hcap
  refine ⟨_, initProgram (normalise n), exec_configure_within hp hc hcap, fbLookup_zeroFill s.fb _, ?_, ?_⟩
  · simp only [initProgram, broadcast_eq, List.append_assoc, List.cons_append, List.nil_append]
    rfl
  · simp only [initProgram, broadcast, List.length_cons, List.length_append, txn_length, List.length_replicate]
    rw [normalise]
    omega

/-- Settles O17: TEARDOWN completes from IDLE, where the next one finds the engine unconfigured. -/
theorem teardownReleases : Obligations.TeardownReleases := by
  intro s hinv hp hc
  obtain ⟨hpend, -, hquiet⟩ := hinv.idle hp
  have hexec := exec_teardown_configured hp hc
  refine ⟨?_, fun t ht => ?_⟩
  · rw [hexec]
    refine congrArg _ ((complete_of_quiet (s := { s.fbForget with configured := false, N := 0 }) hquiet .ok).trans ?_)
    simp [State.fbForget, hp, hpend]
  · cases hexec.symm.trans ht
    exact ⟨exec_unconfigured rfl rfl rfl, fun _ => rfl⟩

/-- Settles O18: every configured-only command makes the same acceptance check. -/
theorem unconfiguredUseFaults : Obligations.UnconfiguredUseFaults :=
  fun _ _ hp hc hi => exec_unconfigured hp hc hi

/-- Settles O20: the addressed frames in send order. -/
theorem writeRegisterTransaction : Obligations.WriteRegisterTransaction := by
  intro s k f hp hc hk
  rw [exec_writeRegister_within hp hc f hk, txn_addressedFrames]

/-- Settles O21: the broadcast written out. -/
theorem writeAllTransaction : Obligations.WriteAllTransaction := by
  intro s f hp hc
  rw [exec_writeAllRegisters_configured hp hc f, broadcast_eq]

/-! ## One chip's frame -/

/-- Changing one chip changes the chain alone. -/
theorem modifyChip_eq (s : State) (p : Nat) (g : Chip → Chip) :
    s.modifyChip p g = { s with chips := (s.modifyChip p g).chips } := by
  cases p <;> rfl

theorem modifyChip_shifts (s : State) (p : Nat) {g : Chip → Chip} (hg : ∀ c, (g c).shift = c.shift) :
    (s.modifyChip p g).chips.map Chip.shift = s.chips.map Chip.shift := by
  cases p with
  | zero => rfl
  | succ q =>
    refine List.ext_getElem? fun i => ?_
    simp only [State.modifyChip, List.getElem?_map, List.getElem?_modify]
    cases s.chips[i]? with
    | none => rfl
    | some c => by_cases h : q = i <;> simp [h, hg]

/-- The registers of the other chips are kept. -/
theorem chipReg_modifyChip_of_ne (s : State) {p q : Nat} (g : Chip → Chip) (hq : q ≠ p) (a : BitVec 4) :
    (s.modifyChip p g).chipReg q a = s.chipReg q a := by
  rw [State.chipReg, chipAt_modifyChip, if_neg hq, State.chipReg]

/-- The register `b` of the chip at `q` after a latch at `s.latchPos`. -/
theorem chipReg_latchInto {s : State} {c : Chip} (hc : s.chipAt s.latchPos = some c) (a : BitVec 4) (d : Byte)
    (b : BitVec 4) :
    (s.latchInto a d).chipReg s.latchPos b = if b ≠ 0 ∧ b = a then some d else s.chipReg s.latchPos b := by
  simp [State.chipReg, State.latchInto, chipAt_modifyChip, hc, chipReg_chipSet]

/-- Settles O40: each row's arm latches its data byte into the register of its address. -/
theorem frameWritesItsRegister : Obligations.FrameWritesItsRegister := by
  intro z d i a hrow s c hc
  obtain ⟨ha, hexec⟩ : a ≠ 0 ∧ exec i s = .next (s.latchInto a d) := by
    simp only [List.mem_cons, Prod.mk.injEq, List.not_mem_nil, or_false] at hrow
    rcases hrow with ⟨rfl, rfl⟩ | ⟨rfl, rfl⟩ | ⟨rfl, rfl⟩ | ⟨rfl, rfl⟩ | ⟨rfl, rfl⟩ | ⟨rfl, rfl⟩ | ⟨rfl, rfl⟩ |
      ⟨rfl, rfl⟩ | ⟨rfl, rfl⟩ | ⟨rfl, rfl⟩ | ⟨rfl, rfl⟩ | ⟨rfl, rfl⟩ | ⟨rfl, rfl⟩
    all_goals exact ⟨by decide, rfl⟩
  refine ⟨(s.latchInto a d).chips, hexec.trans (congrArg _ (modifyChip_eq ..)),
    modifyChip_shifts s _ fun c => chipSet_shift c a d, (chipReg_latchInto hc a d a).trans (if_pos ⟨ha, rfl⟩),
    fun q b hqb => ?_⟩
  by_cases hq : q = s.latchPos
  · subst hq
    exact (chipReg_latchInto hc a d b).trans (if_neg fun h => hqb.elim (· rfl) (· h.2))
  · exact chipReg_modifyChip_of_ne s _ hq b

/-- Settles O41: address 0 picks the no-op's row, whose arm keeps the state. -/
theorem noopFrameChangesNothing : Obligations.NoopFrameChangesNothing := by
  refine ⟨fun _ _ _ => rfl, fun f hf => ⟨frameDontcare f, frameData f, ?_⟩, rfl, rfl⟩
  simp [decodeFrame, hf]

/-- Settles O42: the latch of a frame without a row is `forgetChip`. -/
theorem unmappedFrameOpensOneChip : Obligations.UnmappedFrameOpensOneChip := by
  intro s p c hc haddr
  have hlatch : s.latchChip p = .next (s.forgetChip p) := by
    simp only [State.latchChip, hc, (decodeFrame_unmapped_iff _).2 haddr]
  refine ⟨(s.forgetChip p).chips, s.free + 15, hlatch.trans ?_, modifyChip_shifts s p fun _ => rfl, fun q a hq => ?_⟩
  · rw [State.forgetChip, modifyChip_eq]
  · exact chipReg_modifyChip_of_ne s _ hq a

/-- Settles O39: the frames in the order they were shifted, read from the controller's end. -/
theorem shiftedFramesReachTheirChips : Obligations.ShiftedFramesReachTheirChips := by
  intro fs cs hlen
  refine ⟨fun p hp hpN => ?_, shiftAll_regs fs cs⟩
  have hget : (shiftAll fs cs)[p - 1]? = _ :=
    shiftAll_getElem? hlen (List.getElem?_eq_getElem (show p - 1 < cs.length by omega))
  have hslot : cs.length - p < fs.length := by omega
  rw [← shiftAll, hget, Option.map_some, Nat.sub_add_cancel hp, List.getD_eq_getElem _ _ hslot,
    List.getElem?_eq_getElem hslot]

/-! ## The host's turns -/

/-- A chain of one latches by executing its chip's frame (R107). -/
theorem latchEdge_single {s : State} {c : Chip} {i : Instr} (hchips : s.chips = [c]) (hN : s.N = 1)
    (hd : decodeFrame c.shift = .ok i) :
    s.latchEdge = andThen (exec i { s with latchPos := 1 }) fun t => .next { t with latchPos := 1 } := by
  have hlen : s.chips.length = 1 := by rw [hchips]; rfl
  have hlatch : s.latchChip 1 = exec i { s with latchPos := 1 } := by
    simp [State.latchChip, State.chipAt, hchips, hd]
  rw [State.latchEdge, if_pos (hN.trans hlen.symm), hlen, ← hlatch]
  rfl

/-- Settles O11: the header by the port's equations, the frame by the latch edge of a chain of one. -/
theorem stepRunsTheDecodedInstruction : Obligations.StepRunsTheDecodedInstruction := by
  refine ⟨?_, ?_, ?_⟩
  · intro s u w i rest hr hturn hhost hp hd
    rw [step_word_idle hr hturn hhost hp, acceptHeader_of_ok _ hd]
  · intro s u c i hr hturn hp hop hbusy hchips hN hd
    have hedge := latchEdge_single (s := { u.emit .selHigh with cs := true, mpc := u.mpc + 1 }) hchips hN hd
    rw [exec_frame hd] at hedge ⊢
    exact (step_turnOf hr hturn).trans (engineTurn_endTxn hp hop hbusy hedge)
  · intro s p c i hc hd
    simp only [State.latchChip, hc, hd]

/-- Settles O12: the port in EXEC and FAULTED, `cmd_ready` by definition, the acceptance checks outside IDLE. -/
theorem noWordAcceptedWhileBusyOrFaulted : Obligations.NoWordAcceptedWhileBusyOrFaulted := by
  refine ⟨?_, ?_, ?_⟩
  · intro s u w rest hr hturn hhost hp
    rw [step_turnOf hr hturn]
    obtain hp | hp := hp <;> simp only [agentTurn, hostTurn, hhost, State.presentWord, hp]
  · simp [State.cmdReady]
  · rintro s i n hp (hi | rfl)
    · cases i with
      | teardown | writeRegister | writeAllRegisters | updateBufferReplicate | updateBufferSequence | refresh =>
        exact needConfigured_notIdle _ hp
      | _ => cases hi
    · exact needUnconfigured_notIdle _ hp

/-- Settles O49: the host's turn raises the input, and the reset wins the step after it. -/
theorem hostAssertsReset : Obligations.HostAssertsReset := by
  intro s u rest hr hturn hhost
  have hstep : step s = .next { u with host := rest, rst := true } := by
    rw [step_turnOf hr hturn]
    simp only [agentTurn, hostTurn, hhost]
  exact ⟨hstep, (run_succ 1 hstep).trans (run_succ 0 (step_reset rfl))⟩

/-! ## The reset state -/

/-- Settles O8: each value of the reset state evaluated. -/
theorem resetStateIsCleanEntry : Obligations.ResetStateIsCleanEntry :=
  ⟨by decide, rfl, rfl, by decide, fun _ => rfl⟩

/-- Settles O50: legal parameters, an empty framebuffer for `N = 0`, IDLE with nothing loaded, an empty trace. -/
theorem invariantAtReset : Obligations.InvariantAtReset where
  config := by decide
  fbOk := ⟨rfl, by simp [State.reset], by simp [State.reset]⟩
  phaseOk := ⟨rfl, rfl, rfl, rfl, rfl⟩
  bus := rfl
  depth := by decide

end Sys2Proof.Machine
end

section
/-!
PROOFS. What a step can do, said once (`exec_effect`, `runMicro_effect`, `agentTurn_effect`, `step_turn`), and what every
step keeps: the machine's invariant, the framebuffer's canonical form, the parameters, the phase's transitions.
-/

namespace Sys2Proof.Machine

/-! ## What a command can do in IDLE -/

/-- The state `t` that the command `i` can leave when its header is accepted in `s` (R207 and the commands' own rules). -/
inductive CommandEffect (s : State) : Instr → State → Prop
  /-- A fault is raised (R204, R126). -/
  | fault (i : Instr) {code : FaultCode} (hcode : code ≠ .none) : CommandEffect s i (s.raiseFault code)
  /-- The command completes at once and leaves the framebuffer (R123, R142, R163). -/
  | completed (i : Instr) (r : Result) : CommandEffect s i (s.complete r)
  /-- CONFIGURE within capacity (R121). -/
  | configured (n : Nat) (hc : s.configured = false) (hn : normalise n ≤ s.params.chainLenMax) :
      CommandEffect s (.configure n)
        { s.configureTo (normalise n) with phase := .exec, mprog := initProgram (normalise n), mpc := 0 }
  /-- TEARDOWN (R124). -/
  | released : CommandEffect s .teardown (({ s.fbForget with configured := false, N := 0 } : State).complete .ok)
  /-- UPDATE_BUFFER_REPLICATE (R161). -/
  | filled (c l : Nat) (v : Byte) :
      CommandEffect s (.updateBufferReplicate c l v) (s.updateRun c l (List.replicate l v))
  /-- UPDATE_BUFFER_SEQUENCE with payload to come (R163). -/
  | collecting (c : Nat) {l : Nat} (hc : s.configured = true) (hl : 0 < l) : CommandEffect s (.updateBufferSequence c l)
      { s with phase := .collect
               pend := some { offset := c, length := l, received := [], remaining := payloadWords l } }
  /-- A write or REFRESH starts its transactions of `N` frames (R110, R141, R146, R181). -/
  | loaded (i : Instr) {prog : List MicroOp} (hc : s.configured = true) (hne : prog ≠ [])
      (hgate : gateRun s.N .closed prog = some .closed) :
      CommandEffect s i { s with phase := .exec, mprog := prog, mpc := 0 }

/-- In IDLE a configured engine answers every configured-only command. -/
theorem exec_effect_configured {s : State} {i : Instr} (hp : s.phase = .idle) (hc : s.configured = true)
    (hi : needsConfigured i = true) : ∃ t, exec i s = .next t ∧ CommandEffect s i t := by
  cases i with
  | teardown => exact ⟨_, exec_teardown_configured hp hc, .released⟩
  | writeRegister k f =>
    by_cases hk : k < s.N
    · exact ⟨_, exec_writeRegister_within hp hc f hk, .loaded _ hc (txn_ne_nil _) (gateRun_txn _ _ (walk_length _ _))⟩
    · exact ⟨_, exec_writeRegister_beyond hp hc f (Nat.le_of_not_lt hk), .completed _ _⟩
  | writeAllRegisters f =>
    exact ⟨_, exec_writeAllRegisters_configured hp hc f, .loaded _ hc (txn_ne_nil _) (gateRun_broadcast _ _)⟩
  | updateBufferReplicate c l v => exact ⟨_, exec_updateBufferReplicate_configured hp hc c l v, .filled c l v⟩
  | updateBufferSequence c l =>
    obtain rfl | hl := Nat.eq_zero_or_pos l
    · refine ⟨_, exec_updateBufferSequence_zero hp hc c, ?_⟩
      rw [updateRun_of_invalid _ (by omega)]
      exact .completed _ _
    · exact ⟨_, exec_updateBufferSequence_pos hp hc c hl, .collecting c hc hl⟩
  | refresh => exact ⟨_, exec_refresh_configured hp hc, .loaded _ hc (refreshProgram_ne_nil s) (gateRun_refreshProgram s)⟩
  | _ => cases hi

/-- In IDLE every command answers a next state, one of those of `CommandEffect`. -/
theorem exec_effect {s : State} {i : Instr} (hp : s.phase = .idle)
    (hi : needsConfigured i = true ∨ ∃ n, i = .configure n) : ∃ t, exec i s = .next t ∧ CommandEffect s i t := by
  cases hc : s.configured with
  | false =>
    obtain hi | ⟨n, rfl⟩ := hi
    · exact ⟨_, exec_unconfigured hp hc hi, .fault _ (by decide)⟩
    · by_cases hn : normalise n ≤ s.params.chainLenMax
      · exact ⟨_, exec_configure_within hp hc hn, .configured n hc hn⟩
      · exact ⟨_, exec_configure_beyond hp hc (Nat.lt_of_not_le hn), .completed _ _⟩
  | true =>
    obtain hi | ⟨n, rfl⟩ := hi
    · exact exec_effect_configured hp hc hi
    · exact ⟨_, needUnconfigured_fault _ hp hc, .fault _ (by decide)⟩

/-! ## What a turn can do -/

/-- The state a micro-operation that is not held leaves before the completion check (R103 to R106). -/
inductive MicroEffect (s : State) : MicroOp → State → Prop
  | begun : MicroEffect s .beginTxn { s.emit .selLow with cs := false, mpc := s.mpc + 1 }
  | sent (f : Frame) (hroom : s.txFull = false) :
      MicroEffect s (.send f) { (s.enqueue f).emit (.enq f) with mpc := s.mpc + 1 }
  | latched {cs : List Chip} (q k : Nat) (hlen : cs.length = s.chips.length) : MicroEffect s .endTxn
      { s.emit .selHigh with cs := true, mpc := s.mpc + 1, chips := cs, latchPos := q, free := k }
  | deselected : MicroEffect s .deselect { s with cs := true, mpc := s.mpc + 1 }

theorem runMicro_effect {s : State} {op : MicroOp} (hheld : s.held op = false) :
    ∃ u, s.runMicro op = .next u ∧ MicroEffect s op u := by
  obtain ⟨hh, -⟩ | ⟨-, ⟨rfl, hr⟩ | ⟨f, rfl, hr⟩ | ⟨rfl, cs, q, k, hlen, hr⟩ | ⟨rfl, hr⟩⟩ := runMicro_cases s op
  · simp [hheld] at hh
  · exact ⟨_, hr, .begun⟩
  · exact ⟨_, hr, .sent f hheld⟩
  · exact ⟨_, hr, .latched q k hlen⟩
  · exact ⟨_, hr, .deselected⟩

/-- The state `t` that a turn of an agent can leave. -/
inductive Turn (s : State) : Agent → State → Prop
  /-- Nothing to do, or held. -/
  | stay (a : Agent) : Turn s a s
  | readStatus (rest : List HostAction) :
      Turn s .host { s with host := rest, statusReads := s.statusReads ++ [s.status] }
  | assertReset (rest : List HostAction) : Turn s .host { s with host := rest, rst := true }
  /-- An illegal header (R77). -/
  | illegal (rest : List HostAction) (hp : s.phase = .idle) :
      Turn s .host (({ s with host := rest } : State).raiseFault .illegalCommand)
  /-- A legal header (R207). -/
  | command {w : CmdWord} {rest : List HostAction} {i : Instr} {t : State} (hhost : s.host = .word w :: rest)
      (hp : s.phase = .idle) (hd : decode w = .ok i) (heffect : CommandEffect { s with host := rest } i t) :
      Turn s .host t
  /-- A payload word that is not the last (R163). -/
  | payload {p : Pending} (w : CmdWord) (rest : List HostAction) (hp : s.phase = .collect) (hpend : s.pend = some p)
      (hmore : 2 ≤ p.remaining) : Turn s .host { s with
        host := rest, pend := some { p with received := collectBytes p w, remaining := p.remaining - 1 } }
  /-- The last payload word (R163). -/
  | lastPayload {p : Pending} (w : CmdWord) (rest : List HostAction) (hhost : s.host = .word w :: rest)
      (hp : s.phase = .collect) (hpend : s.pend = some p) (hlast : p.remaining ≤ 1) :
      Turn s .host (({ s with host := rest } : State).updateRun p.offset p.length (collectBytes p w))
  /-- A micro-operation and the completion check (R21, R113). -/
  | micro {op : MicroOp} {u : State} (hp : s.phase = .exec) (hop : s.mprog[s.mpc]? = some op)
      (heffect : MicroEffect s op u) : Turn s .engine u.finish
  /-- Completion past the end of the micro-program (log 12). -/
  | pastEnd (hp : s.phase = .exec) (hop : s.mprog[s.mpc]? = none) : Turn s .engine (s.complete .ok)
  /-- The transport's shift (R102). -/
  | shift {f : Frame} {q : List Frame} (hq : s.queue = f :: q) :
      Turn s .transport { s with queue := q, chips := shiftIn f s.chips }

/-- The turn answers one of the effects of `Turn`, or it is a payload word without a pending header (log 14). -/
def TurnAnswers (s : State) (a : Agent) (o : Host.Outcome State Fault Refusal) : Prop :=
  (∃ t, o = .next t ∧ Turn s a t) ∨ (s.phase = .collect ∧ s.pend = none ∧ o = .fault .noPendingHeader)

theorem TurnAnswers.stay {s : State} {a : Agent} {o : Host.Outcome State Fault Refusal} (h : o = .next s) :
    TurnAnswers s a o := .inl ⟨s, h, .stay a⟩

/-- A word on the command port, phase by phase (R34, R36). -/
theorem hostTurn_word_effect {s : State} {w : CmdWord} {rest : List HostAction} (hhost : s.host = .word w :: rest) :
    TurnAnswers s .host (hostTurn s) := by
  cases hp : s.phase with
  | idle =>
    rw [hostTurn_word_idle hhost hp]
    cases hd : decode w with
    | error e => exact .inl ⟨_, acceptHeader_of_error _ hd, .illegal rest hp⟩
    | ok i =>
      obtain ⟨t, hexec, heffect⟩ := exec_effect (s := { s with host := rest }) hp (decode_isCommand hd)
      exact .inl ⟨t, (acceptHeader_of_ok _ hd).trans hexec, .command hhost hp hd heffect⟩
  | collect =>
    rw [hostTurn_word_collect hhost hp]
    obtain hpend | ⟨p, hpend⟩ := Option.eq_none_or_eq_some s.pend
    · exact .inr ⟨hp, hpend, by simp only [State.acceptPayload, hpend]⟩
    · by_cases hlast : p.remaining ≤ 1
      · exact .inl ⟨_, acceptPayload_last w hpend hlast, .lastPayload w rest hhost hp hpend hlast⟩
      · exact .inl ⟨_, acceptPayload_more w hpend (Nat.lt_of_not_le hlast),
          .payload w rest hp hpend (Nat.lt_of_not_le hlast)⟩
  | exec | faulted => exact .stay (by simp only [hostTurn, hhost, State.presentWord, hp])

theorem hostTurn_effect (s : State) : TurnAnswers s .host (hostTurn s) := by
  cases hhost : s.host with
  | nil => exact .stay (by simp only [hostTurn, hhost])
  | cons act rest =>
    cases act with
    | word w => exact hostTurn_word_effect hhost
    | readStatus => exact .inl ⟨_, by simp only [hostTurn, hhost], .readStatus rest⟩
    | assertReset => exact .inl ⟨_, by simp only [hostTurn, hhost], .assertReset rest⟩

theorem engineTurn_effect (s : State) : TurnAnswers s .engine (engineTurn s) := by
  cases hp : s.phase with
  | exec =>
    cases hop : s.mprog[s.mpc]? with
    | none => exact .inl ⟨_, by simp only [engineTurn, hp, hop], .pastEnd hp hop⟩
    | some op =>
      cases hheld : s.held op with
      | true => exact .stay (engineTurn_of_held hp hop hheld)
      | false =>
        obtain ⟨u, hm, heffect⟩ := runMicro_effect hheld
        exact .inl ⟨_, engineTurn_of_runMicro hp hop hm, .micro hp hop heffect⟩
  | idle | collect | faulted => exact .stay (by simp only [engineTurn, hp])

theorem transportTurn_effect (s : State) : TurnAnswers s .transport (transportTurn s) := by
  cases hs : s.stalled with
  | true => exact .stay (by simp [transportTurn, hs])
  | false =>
    cases hq : s.queue with
    | nil => exact .stay (by simp [transportTurn, hq])
    | cons f q => exact .inl ⟨_, by simp [transportTurn, hs, hq], .shift hq⟩

theorem agentTurn_effect (a : Agent) (s : State) : TurnAnswers s a (agentTurn a s) := by
  cases a with
  | host => exact hostTurn_effect s
  | engine => exact engineTurn_effect s
  | transport => exact transportTurn_effect s

/-- Everything a step can do: the reset, or a turn. -/
theorem step_turn {s t : State} (h : step s = .next t) :
    (s.rst = true ∧ t = s.applyReset) ∨
      (s.rst = false ∧ ∃ a l, s.turnOf = (a, { s with sched := l }) ∧ Turn { s with sched := l } a t) := by
  obtain hreset | ⟨hr, a, _, hturn, ⟨l, rfl⟩, ht⟩ := step_turnOf_cases h
  · exact .inl hreset
  · obtain ⟨t', ht', heffect⟩ | ⟨-, -, hfault⟩ := agentTurn_effect a { s with sched := l }
    · cases ht.symm.trans ht'
      exact .inr ⟨hr, a, l, hturn, heffect⟩
    · cases ht.symm.trans hfault

/-- Where a payload word has its pending header every step answers. -/
theorem exists_step_turn {s : State} (hr : s.rst = false) (hpend : s.phase = .collect → s.pend ≠ none) :
    ∃ a l t, step s = .next t ∧ Turn { s with sched := l } a t := by
  obtain ⟨a, l, hturn⟩ := turnOf_eq s
  obtain ⟨t, ht, heffect⟩ | ⟨hp, hnone, -⟩ := agentTurn_effect a { s with sched := l }
  · exact ⟨a, l, t, (step_turnOf hr hturn).trans ht, heffect⟩
  · exact absurd hnone (hpend hp)

/-! ## The framebuffer's part of the invariant -/

/-- Writes inside `[0, 8N)` keep exactly these offsets known (R50, R61). -/
theorem State.fbInv.write {s : State} (h : s.fbInv) {c : Nat} {bs : List Byte} (hrun : c + bs.length ≤ 8 * s.N) :
    ({ s with fb := fbWriteRun s.fb c bs } : State).fbInv := by
  obtain ⟨hwf, hbelow, hknown⟩ := h
  refine ⟨fbWf_fbWriteRun _ _ _ hwf, fun x hx => ?_, fun i hi => ?_⟩
  · obtain ⟨-, hx⟩ | hx := mem_fbWriteRun _ _ _ _ hx
    · exact hx.trans_le hrun
    · exact hbelow x hx
  · rw [fbLookup_fbWriteRun]
    split
    · next hin => simp [show i - c < bs.length by omega]
    · exact hknown i hi

/-- CONFIGURE's zero fill makes exactly `[0, 8N)` known where nothing was (R121, R128). -/
theorem fbInv_configureTo {s : State} (hfb : s.fb = []) (n : Nat) : (s.configureTo n).fbInv := by
  rw [State.fbInv, State.configureTo_fb, State.configureTo_N, hfb]
  refine ⟨fbWf_fbWriteRun _ _ _ rfl, fun x hx => ?_, fun i hi => ?_⟩
  · obtain ⟨-, hx⟩ | hx := mem_fbWriteRun _ _ _ _ hx
    · simpa using hx
    · cases hx
  · rw [fbLookup_zeroFill, if_pos hi]; rfl

/-! ## The invariant, state operation by state operation -/

section Keeps

variable {s : State} (h : s.Inv)
include h

/-- The scripts and the reset input take no part in the invariant. -/
theorem State.Inv.of_scripts (hs : List HostAction) (l : List Agent) (rs : List StatusWord) (r : Bool) :
    ({ s with host := hs, sched := l, statusReads := rs, rst := r } : State).Inv :=
  ⟨h.config, h.fbOk, h.phaseOk, h.bus, h.depth⟩

theorem State.Inv.of_fb {m : List Host.Cell} (hm : ({ s with fb := m } : State).fbInv) : ({ s with fb := m } : State).Inv :=
  ⟨h.config, hm, h.phaseOk, h.bus, h.depth⟩

/-- A command that completes with the select line inactive leaves IDLE in order (R36). -/
theorem State.Inv.complete (hfault : s.fault = .none) (hcs : s.cs = true) (r : Result) : (s.complete r).Inv :=
  ⟨h.config, h.fbOk, ⟨rfl, hfault, rfl, rfl, hcs⟩, h.bus, h.depth⟩

theorem State.Inv.raiseFault (hp : s.phase = .idle) {code : FaultCode} (hcode : code ≠ .none) :
    (s.raiseFault code).Inv := by
  obtain ⟨hpend, -, hquiet⟩ := h.idle hp
  exact ⟨h.config, h.fbOk, ⟨hpend, hcode, hquiet⟩, h.bus, h.depth⟩

theorem State.Inv.updateRun (hfault : s.fault = .none) (hcs : s.cs = true) (c : Nat) {l : Nat} {bytes : List Byte}
    (hlen : bytes.length = l) : (s.updateRun c l bytes).Inv := by
  by_cases hrun : 0 < l ∧ c + l - 1 < 8 * s.N
  · rw [updateRun_of_valid _ hrun]
    exact (h.of_fb (h.fbOk.write (by omega))).complete hfault hcs _
  · rw [updateRun_of_invalid _ hrun]
    exact h.complete hfault hcs _

/-- A micro-program of whole transactions starts with the gate closed (R109, R110). -/
theorem State.Inv.load (hp : s.phase = .idle) (hc : s.configured = true) {prog : List MicroOp} (hne : prog ≠ [])
    (hgate : gateRun s.N .closed prog = some .closed) :
    ({ s with phase := .exec, mprog := prog, mpc := 0 } : State).Inv := by
  obtain ⟨hpend, hfault, -, -, hcs⟩ := h.idle hp
  have hexec : ({ s with phase := .exec, mprog := prog, mpc := 0 } : State).execOk = true :=
    (execOk_iff _).2 ⟨List.length_pos_iff.2 hne, ⟨.closed, rfl, hcs⟩, hgate⟩
  exact ⟨h.config, h.fbOk, ⟨hpend, hfault, hc, hexec⟩, h.bus, h.depth⟩

theorem State.Inv.configureTo (hp : s.phase = .idle) (hc : s.configured = false) {n : Nat} (hn1 : 1 ≤ n)
    (hn : n ≤ s.params.chainLenMax) : (s.configureTo n).Inv := by
  have hphase : (s.configureTo n).phaseInv := by
    simp only [State.phaseInv, State.configureTo_phase, hp]
    exact h.idle hp
  exact ⟨⟨h.config.1, hn1, hn⟩, fbInv_configureTo (h.fb_eq_nil hc) n, hphase, h.bus, h.depth⟩

/-- An unconfigured engine knows nothing of its framebuffer (R69, R124). -/
theorem State.Inv.released (hp : s.phase = .idle) : ({ s.fbForget with configured := false, N := 0 } : State).Inv := by
  have hphase : ({ s.fbForget with configured := false, N := 0 } : State).phaseInv := by
    simpa [State.phaseInv, hp] using h.idle hp
  exact ⟨⟨h.config.1, rfl⟩, ⟨rfl, by simp, by simp⟩, hphase, h.bus, h.depth⟩

/-- Every effect of a command keeps the invariant. -/
theorem CommandEffect.inv {i : Instr} {t : State} (heffect : CommandEffect s i t) (hp : s.phase = .idle) : t.Inv := by
  obtain ⟨-, hfault, -, -, hcs⟩ := h.idle hp
  cases heffect with
  | fault _ hcode => exact h.raiseFault hp hcode
  | completed _ r => exact h.complete hfault hcs r
  | configured n hc hn =>
    exact (h.configureTo hp hc (one_le_normalise n) hn).load hp rfl (initProgram_ne_nil _) (gateRun_initProgram _)
  | released => exact (h.released hp).complete hfault hcs _
  | filled c l v => exact h.updateRun hfault hcs c List.length_replicate
  | collecting c hc hl =>
    have hdue : 1 ≤ payloadWords _ := Nat.one_le_iff_ne_zero.2 (mt (payloadWords_eq_zero _).1 hl.ne')
    obtain ⟨-, -, hquiet⟩ := h.idle hp
    exact ⟨h.config, h.fbOk, ⟨hfault, hc, hquiet, _, rfl, hdue, le_rfl, by simp⟩, h.bus, h.depth⟩
  | loaded _ hc hne hgate => exact h.load hp hc hne hgate

/-- A payload word before the last keeps count of the bytes received (R38, R74). -/
theorem State.Inv.payload (hp : s.phase = .collect) {p : Pending} (hpend : s.pend = some p) (hmore : 2 ≤ p.remaining)
    (w : CmdWord) : ({ s with
      pend := some { p with received := collectBytes p w, remaining := p.remaining - 1 } } : State).Inv := by
  obtain ⟨hfault, hc, hquiet, q, hq, -, hdue, hreceived⟩ := h.collect hp
  obtain rfl : p = q := Option.some.inj (hpend.symm.trans hq)
  have hfew := (payloadWords_bounds p.length).2
  have hcount : (collectBytes p w).length = 8 * (payloadWords p.length - (p.remaining - 1)) := by
    rw [collectBytes, List.length_take, List.length_append, lanes_length]
    omega
  have hphase : ({ s with
      pend := some { p with received := collectBytes p w, remaining := p.remaining - 1 } } : State).phaseInv := by
    simp only [State.phaseInv, hp]
    exact ⟨hfault, hc, hquiet, _, rfl, by dsimp only; omega, by dsimp only; omega, hcount⟩
  exact ⟨h.config, h.fbOk, hphase, h.bus, h.depth⟩

theorem State.Inv.lastPayload (hp : s.phase = .collect) {p : Pending} (hpend : s.pend = some p)
    (hlast : p.remaining ≤ 1) (w : CmdWord) : (s.updateRun p.offset p.length (collectBytes p w)).Inv := by
  obtain ⟨hfault, -, ⟨-, -, hcs⟩, q, hq, hok⟩ := h.collect hp
  obtain rfl : p = q := Option.some.inj (hpend.symm.trans hq)
  exact h.updateRun hfault hcs _ (collectBytes_length hok (le_antisymm hlast hok.1) w)

end Keeps

/-! ## The invariant under a micro-operation -/

/-- The engine's fields that no micro-operation writes, and its one step through the program (R103 to R106). -/
structure Advanced (s u : State) : Prop where
  mpc : u.mpc = s.mpc + 1
  mprog : u.mprog = s.mprog
  N : u.N = s.N
  configured : u.configured = s.configured
  params : u.params = s.params
  fb : u.fb = s.fb
  phase : u.phase = s.phase
  pend : u.pend = s.pend
  fault : u.fault = s.fault

theorem MicroEffect.advanced {s u : State} {op : MicroOp} (h : MicroEffect s op u) : Advanced s u := by
  cases h <;> exact ⟨rfl, rfl, rfl, rfl, rfl, rfl, rfl, rfl, rfl⟩

/-- The gate, the select line and the bus trace move together (R108). -/
theorem MicroEffect.gate {s u : State} {op : MicroOp} (h : MicroEffect s op u) {n : Nat} {g g' : Gate}
    (hg : gateOp n g op = some g') (hcs : s.cs = decide (g = Gate.closed)) (hbus : busRun true s.trace = some s.cs) :
    u.cs = decide (g' = Gate.closed) ∧ busRun true u.trace = some u.cs := by
  cases h with
  | begun =>
    cases g with
    | closed =>
      cases hg
      exact ⟨rfl, by simp [busRun_append, hbus, hcs, busRun, busStep]⟩
    | opened k => cases hg
  | sent f hroom =>
    cases g with
    | closed => cases hg
    | opened k =>
      cases hg
      exact ⟨hcs, by simp [busRun_append, hbus, hcs, busRun, busStep]⟩
  | latched q k hlen =>
    cases g with
    | closed => cases hg
    | opened k =>
      obtain ⟨-, rfl⟩ : k = n ∧ Gate.closed = g' := by simpa [gateOp, ite_eq_iff] using hg
      exact ⟨rfl, by simp [busRun_append, hbus, hcs, busRun, busStep]⟩
  | deselected =>
    cases g with
    | closed =>
      cases hg
      exact ⟨rfl, by simp [hbus, hcs]⟩
    | opened k => cases hg

/-- A frame is enqueued only where the queue has room (R102, R104). -/
theorem MicroEffect.depth {s u : State} {op : MicroOp} (h : MicroEffect s op u)
    (hdepth : s.queue.length ≤ s.params.queueDepth) : u.queue.length ≤ u.params.queueDepth := by
  cases h with
  | sent f hroom =>
    have hne : s.queue.length ≠ s.params.queueDepth := by
      simp only [State.txFull, Bool.or_eq_false_iff, beq_eq_false_iff_ne] at hroom
      exact hroom.2
    have hlt : s.queue.length + 1 ≤ s.params.queueDepth := by omega
    simpa using hlt
  | _ => exact hdepth

/-- A micro-operation and the completion check keep the invariant: at the end of the program the gate is closed (R110). -/
theorem MicroEffect.inv {s u : State} {op : MicroOp} (heffect : MicroEffect s op u) (h : s.Inv) (hp : s.phase = .exec)
    (hop : s.mprog[s.mpc]? = some op) : u.finish.Inv := by
  obtain ⟨hpend, hfault, hc, hexec⟩ := h.exec hp
  obtain ⟨hlt, ⟨g, hg, hcs⟩, hall⟩ := (execOk_iff s).1 hexec
  obtain ⟨g', hg'⟩ := gateOp_isSome hop hg hall
  obtain ⟨hcs', hbus'⟩ := heffect.gate hg' hcs h.bus
  obtain ⟨hmpc, hmprog, hN, hconf, hparams, hfb, hphase, hpend', hfault'⟩ := heffect.advanced
  have hnext : gateRun u.N .closed (u.mprog.take u.mpc) = some g' := by
    rw [hN, hmprog, hmpc, gateRun_take_succ hop hg, hg']
  have hconfig : u.configInv := by rw [State.configInv, hparams, hconf, hN]; exact h.config
  have hfbInv : u.fbInv := by rw [State.fbInv, hfb, hN]; exact h.fbOk
  have hdepth := heffect.depth h.depth
  obtain hend | hlt' := Nat.eq_or_lt_of_le (show u.mpc ≤ u.mprog.length by rw [hmpc, hmprog]; exact hlt)
  · have hclosed : g' = .closed := by
      rw [hend, List.take_length, hN, hmprog, hall] at hnext
      exact (Option.some.inj hnext).symm
    rw [finish_of_eq hend]
    exact ⟨hconfig, hfbInv, ⟨rfl, hfault'.trans hfault, rfl, rfl, hcs'.trans (decide_eq_true hclosed)⟩, hbus', hdepth⟩
  · have hexec' : u.execOk = true := (execOk_iff u).2 ⟨hlt', ⟨g', hnext, hcs'⟩, by rw [hN, hmprog, hall]⟩
    have hphaseInv : u.phaseInv := by
      simp only [State.phaseInv, hphase, hp]
      exact ⟨hpend'.trans hpend, hfault'.trans hfault, hconf.trans hc, hexec'⟩
    rw [finish_of_lt hlt']
    exact ⟨hconfig, hfbInv, hphaseInv, hbus', hdepth⟩

/-! ## The invariant under a step -/

/-- Reset leads to the invariant, whatever the select line was (R230). -/
theorem State.Inv.applyReset {s : State} (h : s.Inv) : s.applyReset.Inv where
  config := ⟨s.applyReset_params ▸ h.config.1, rfl⟩
  fbOk := ⟨rfl, fun _ hx => (List.not_mem_nil hx).elim, fun _ hi => absurd hi (Nat.not_lt_zero _)⟩
  phaseOk := ⟨rfl, rfl, rfl, rfl, rfl⟩
  bus := by
    have hbus := h.bus
    have hlevel : s.applyReset.cs = true := rfl
    rw [State.applyReset_trace, hlevel]
    cases hcs : s.cs with
    | false => simp [busRun_append, hbus, hcs, busRun, busStep]
    | true => simp [hbus, hcs]
  depth := by rw [State.applyReset_queue, State.applyReset_params]; exact h.depth

theorem Turn.inv {s t : State} {a : Agent} (hturn : Turn s a t) (h : s.Inv) : t.Inv := by
  cases hturn with
  | stay => exact h
  | readStatus rest => exact h.of_scripts rest s.sched _ s.rst
  | assertReset rest => exact h.of_scripts rest s.sched s.statusReads true
  | illegal rest hp => exact (h.of_scripts rest s.sched s.statusReads s.rst).raiseFault hp (by decide)
  | command hhost hp hd heffect => exact heffect.inv (h.of_scripts _ s.sched s.statusReads s.rst) hp
  | payload w rest hp hpend hmore => exact (h.payload hp hpend hmore w).of_scripts rest s.sched s.statusReads s.rst
  | lastPayload w rest hhost hp hpend hlast =>
    exact (h.of_scripts rest s.sched s.statusReads s.rst).lastPayload hp hpend hlast w
  | micro hp hop heffect => exact heffect.inv h hp hop
  | pastEnd hp hop =>
    obtain ⟨-, -, -, hexec⟩ := h.exec hp
    exact absurd (List.getElem?_eq_none_iff.1 hop) (Nat.not_le.2 ((execOk_iff s).1 hexec).1)
  | shift hq =>
    have hdepth := h.depth
    rw [hq] at hdepth
    exact ⟨h.config, h.fbOk, h.phaseOk, h.bus, Nat.le_of_succ_le hdepth⟩

/-- Settles O51: the reset and every turn keep the invariant. -/
theorem stepKeepsTheInvariant : Obligations.StepKeepsTheInvariant := by
  intro s t h hstep
  obtain ⟨-, rfl⟩ | ⟨-, a, l, -, hturn⟩ := step_turn hstep
  · exact h.applyReset
  · exact hturn.inv (h.of_scripts s.host l s.statusReads s.rst)

/-- Settles O52: the one stop is a payload word without a pending header, which the invariant excludes in COLLECT. -/
theorem stepAlwaysAnswersUnderTheInvariant : Obligations.StepAlwaysAnswersUnderTheInvariant := by
  intro s h
  cases hr : s.rst with
  | true => exact ⟨_, step_reset hr⟩
  | false =>
    obtain ⟨_, _, t, hstep, -⟩ := exists_step_turn hr fun hp => by
      obtain ⟨-, -, -, p, hpend, -⟩ := h.collect hp
      simp [hpend]
    exact ⟨t, hstep⟩

/-! ## Who writes the framebuffer -/

/-- The commands that write the framebuffer in the step of their header (R121, R124, R161). -/
def WritesBuffer (i : Instr) : Prop :=
  (∃ n, i = .configure n) ∨ i = .teardown ∨ ∃ c l v, i = .updateBufferReplicate c l v

/-- The ways the framebuffer is written: forgotten, or a run of bytes (R121, R124, R161, R163, R230). -/
def BufferWritten (m m' : List Host.Cell) : Prop := m' = [] ∨ ∃ c bytes, m' = fbWriteRun m c bytes

/-- Both ways keep the canonical form. -/
theorem BufferWritten.fbWf {m m' : List Host.Cell} (h : BufferWritten m m') (hm : fbWf m = true) : fbWf m' = true := by
  obtain rfl | ⟨c, bytes, rfl⟩ := h
  · rfl
  · exact fbWf_fbWriteRun bytes m c hm

theorem updateRun_fb (s : State) (c l : Nat) (bytes : List Byte) :
    (s.updateRun c l bytes).fb = s.fb ∨ BufferWritten s.fb (s.updateRun c l bytes).fb := by
  simp only [State.updateRun]
  split
  · exact .inr (.inr ⟨c, bytes, rfl⟩)
  · exact .inl rfl

theorem CommandEffect.fb {s t : State} {i : Instr} (h : CommandEffect s i t) :
    t.fb = s.fb ∨ (WritesBuffer i ∧ BufferWritten s.fb t.fb) := by
  cases h with
  | configured n => exact .inr ⟨.inl ⟨n, rfl⟩, .inr ⟨_, _, rfl⟩⟩
  | released => exact .inr ⟨.inr (.inl rfl), .inl rfl⟩
  | filled c l v => exact (updateRun_fb s c l _).imp_right fun hw => ⟨.inr (.inr ⟨c, l, v, rfl⟩), hw⟩
  | _ => exact .inl rfl

@[simp] theorem State.finish_fb (s : State) : s.finish.fb = s.fb := by
  simp only [State.finish]; split <;> rfl

/-- A turn that changes the framebuffer is the host's, with a header that writes it or a payload word. -/
theorem Turn.fb {s t : State} {a : Agent} (h : Turn s a t) : t.fb = s.fb ∨
    (BufferWritten s.fb t.fb ∧ a = .host ∧ ∃ w rest, s.host = .word w :: rest ∧
      (s.phase = .collect ∨ (s.phase = .idle ∧ ∃ i, decode w = .ok i ∧ WritesBuffer i))) := by
  cases h with
  | command hhost hp hd heffect =>
    exact heffect.fb.imp_right fun ⟨hi, hw⟩ => ⟨hw, rfl, _, _, hhost, .inr ⟨hp, _, hd, hi⟩⟩
  | lastPayload w rest hhost hp =>
    exact (updateRun_fb _ _ _ _).imp_right fun hw => ⟨hw, rfl, _, _, hhost, .inl hp⟩
  | micro hp hop heffect =>
    exact .inl ((State.finish_fb _).trans heffect.advanced.fb)
  | _ => exact .inl rfl

/-- Settles O53: the framebuffer is kept, forgotten, or a run is written to it. -/
theorem framebufferStaysCanonical : Obligations.FramebufferStaysCanonical := by
  intro s t hwf hstep
  obtain ⟨-, rfl⟩ | ⟨-, a, l, -, hturn⟩ := step_turn hstep
  · rfl
  · obtain hfb | ⟨hw, -⟩ := hturn.fb
    · rw [hfb]; exact hwf
    · exact hw.fbWf hwf

/-- Settles O54: the writers among the effects of a turn. -/
theorem framebufferWriters : Obligations.FramebufferWriters := by
  intro s t hstep hne
  obtain ⟨hr, -⟩ | ⟨-, a, l, hturnOf, hturn⟩ := step_turn hstep
  · exact .inl hr
  · obtain hfb | ⟨-, rfl, w, rest, hhost, hp⟩ := hturn.fb
    · exact absurd hfb hne
    · refine .inr ⟨_, w, rest, hturnOf, hhost, hp.imp_right fun ⟨hidle, i, hd, hi⟩ => ⟨hidle, ?_⟩⟩
      obtain ⟨n, rfl⟩ | rfl | ⟨c, l, v, rfl⟩ := hi
      · exact .inl ⟨n, hd⟩
      · exact .inr (.inl hd)
      · exact .inr (.inr ⟨c, l, v, hd⟩)

/-! ## What is built in -/

/-- The parameters, the number of chips and the transport's health. -/
structure Built (s t : State) : Prop where
  params : t.params = s.params
  chips : t.chips.length = s.chips.length
  stalled : t.stalled = s.stalled

theorem Built.updateRun (s : State) (c l : Nat) (bytes : List Byte) : Built s (s.updateRun c l bytes) := by
  simp only [State.updateRun]
  split <;> exact ⟨rfl, rfl, rfl⟩

theorem Built.finish (s : State) : Built s s.finish := by
  simp only [State.finish]
  split <;> exact ⟨rfl, rfl, rfl⟩

theorem Built.trans {s t u : State} (h : Built s t) (h' : Built t u) : Built s u :=
  ⟨h'.params.trans h.params, h'.chips.trans h.chips, h'.stalled.trans h.stalled⟩

theorem Built.of_scripts {s t : State} {hs : List HostAction} {l : List Agent}
    (h : Built { s with host := hs, sched := l } t) : Built s t := ⟨h.params, h.chips, h.stalled⟩

theorem CommandEffect.built {s t : State} {i : Instr} (h : CommandEffect s i t) : Built s t := by
  cases h with
  | filled c l v => exact .updateRun s c l _
  | _ => exact ⟨rfl, rfl, rfl⟩

theorem MicroEffect.built {s u : State} {op : MicroOp} (h : MicroEffect s op u) : Built s u := by
  cases h with
  | latched q k hlen => exact ⟨rfl, hlen, rfl⟩
  | _ => exact ⟨rfl, rfl, rfl⟩

theorem Turn.built {s t : State} {a : Agent} (h : Turn s a t) : Built s t := by
  cases h with
  | command hhost hp hd heffect => exact heffect.built.of_scripts
  | lastPayload w rest => exact (Built.updateRun { s with host := rest } _ _ _).of_scripts
  | micro hp hop heffect => exact heffect.built.trans (.finish _)
  | shift hq => exact ⟨rfl, shiftIn_length _ _, rfl⟩
  | _ => exact ⟨rfl, rfl, rfl⟩

theorem Built.applyReset (s : State) : Built s s.applyReset := by
  refine ⟨s.applyReset_params, ?_, ?_⟩
  · simpa using congrArg List.length s.applyReset_shifts
  · unfold State.applyReset; cases s.cs <;> rfl

/-- Settles O55: no effect of a turn writes these fields, and a reset keeps the number of chips. -/
theorem parametersAndChainLengthAreFixed : Obligations.ParametersAndChainLengthAreFixed := by
  intro s t hstep
  have hbuilt : Built s t := by
    obtain ⟨-, rfl⟩ | ⟨-, a, l, -, hturn⟩ := step_turn hstep
    · exact .applyReset s
    · exact hturn.built.of_scripts
  exact ⟨hbuilt.params, hbuilt.chips, hbuilt.stalled⟩

/-! ## The phase -/

/-- The completion check leaves the phase or ends in IDLE (R36). -/
theorem finish_phase (s : State) : s.finish.phase = s.phase ∨ s.finish.phase = .idle := by
  simp only [State.finish]
  split
  · exact .inr rfl
  · exact .inl rfl

/-- A turn changes the phase only along the transitions of R36. -/
theorem Turn.phase {s t : State} {a : Agent} (h : Turn s a t) : t.phase = s.phase ∨ s.phase = .idle ∨
    (s.phase = .collect ∧ t.phase = .idle) ∨ (s.phase = .exec ∧ t.phase = .idle) := by
  cases h with
  | illegal rest hp => exact .inr (.inl hp)
  | command hhost hp => exact .inr (.inl hp)
  | lastPayload w rest hhost hp => exact .inr (.inr (.inl ⟨hp, State.updateRun_phase ..⟩))
  | micro hp hop heffect =>
    exact (finish_phase _).imp (fun h => h.trans heffect.advanced.phase) fun h => .inr (.inr ⟨hp, h⟩)
  | pastEnd hp => exact .inr (.inr (.inr ⟨hp, rfl⟩))
  | _ => exact .inl rfl

/-- Settles O56: from IDLE every other phase is a transition, from COLLECT and EXEC only IDLE. -/
theorem phaseTransitions : Obligations.PhaseTransitions := by
  intro s t hr hstep hne
  obtain ⟨hr', -⟩ | ⟨-, a, l, -, hturn⟩ := step_turn hstep
  · simp [hr] at hr'
  · obtain hkept | hidle | hend := hturn.phase
    · exact absurd hkept hne
    · have hidle' : s.phase = .idle := hidle
      refine .inl ⟨hidle', ?_⟩
      cases ht : t.phase with
      | idle => exact absurd (ht.trans hidle'.symm) hne
      | collect | exec | faulted => simp
    · exact .inr hend

/-! ## FAULTED -/

/-- Settles O47: of a turn's effects only the idle turn, the host's STATUS reads and resets and the transport's shift are
possible in FAULTED. -/
theorem faultedUntilReset : Obligations.FaultedUntilReset := by
  intro s hp
  refine ⟨fun hr => ?_, fun hr => ⟨_, step_reset hr, rfl, rfl⟩⟩
  obtain ⟨a, l, t, hstep, hturn⟩ := exists_step_turn hr fun hcollect => by simp [hp] at hcollect
  refine ⟨t, hstep, ?_⟩
  cases hturn with
  | stay | readStatus | assertReset | shift => exact ⟨hp, rfl, rfl, rfl, rfl, rfl, rfl, rfl, rfl, rfl, rfl⟩
  | illegal _ hp' | command _ hp' | payload _ _ hp' | lastPayload _ _ _ hp' | micro hp' | pastEnd hp' =>
    cases hp.symm.trans hp'

end Sys2Proof.Machine
end

section
/-!
PROOFS. Commands run to their completion on the default turns (log 1). Every such step in EXEC leaves less work, which
bounds the run; the chip writes are one transaction each, whose frames `reaches_completion` brings to their chips.
-/

namespace Sys2Proof.Machine

/-! ## A bound on a command's run (70_reset_and_hazards.md) -/

/-- What is left to do in EXEC: at most two steps for a micro-operation, one for a queued frame. -/
def State.work (s : State) : Nat := 2 * (s.mprog.length - s.mpc) + s.queue.length

@[simp] theorem State.finish_rst (s : State) : s.finish.rst = s.rst := by
  simp only [State.finish]; split <;> rfl

@[simp] theorem State.finish_sched (s : State) : s.finish.sched = s.sched := by
  simp only [State.finish]; split <;> rfl

@[simp] theorem State.finish_stalled (s : State) : s.finish.stalled = s.stalled := by
  simp only [State.finish]; split <;> rfl

@[simp] theorem State.finish_host (s : State) : s.finish.host = s.host := by
  simp only [State.finish]; split <;> rfl

/-- From `s` to `t` a step of the command in EXEC: the scripts, the framebuffer and the length are kept, and the command
completes or less work is left. -/
structure Progress (s t : State) : Prop where
  rst : t.rst = s.rst
  sched : t.sched = s.sched
  stalled : t.stalled = s.stalled
  host : t.host = s.host
  fb : t.fb = s.fb
  N : t.N = s.N
  ends : (t.phase = .idle ∧ t.result = .ok) ∨ (t.phase = .exec ∧ t.work < s.work)

/-- A micro-operation takes itself off the work and adds at most one frame. -/
theorem MicroEffect.work {s u : State} {op : MicroOp} (h : MicroEffect s op u) (hlt : s.mpc < s.mprog.length) :
    u.work < s.work := by
  cases h <;> simp only [State.work, State.emit_mprog, State.emit_queue, State.enqueue_mprog, State.enqueue_queue,
    List.length_append, List.length_singleton] <;> omega

theorem MicroEffect.progress {s u : State} {op : MicroOp} (h : MicroEffect s op u) (hp : s.phase = .exec)
    (hop : s.mprog[s.mpc]? = some op) : Progress s u.finish := by
  have hwork := h.work (mpc_lt_of_some hop)
  have hadvanced := h.advanced
  have hends : (u.finish.phase = .idle ∧ u.finish.result = .ok) ∨ (u.finish.phase = .exec ∧ u.finish.work < s.work) := by
    have hle : u.mpc ≤ u.mprog.length := by
      rw [hadvanced.mpc, hadvanced.mprog]
      exact mpc_lt_of_some hop
    obtain hend | hlt := Nat.eq_or_lt_of_le hle
    · rw [finish_of_eq hend]
      exact .inl ⟨rfl, rfl⟩
    · rw [finish_of_lt hlt]
      exact .inr ⟨hadvanced.phase.trans hp, hwork⟩
  cases h <;> exact ⟨by simp, by simp, by simp, by simp, by simp, by simp, hends⟩

/-- A queue without frames holds nothing up (R102). -/
theorem State.Driving.held_of_queue_nil {s : State} (h : s.Driving) (hq : s.queue = []) (op : MicroOp) :
    s.held op = false := by
  have hfull : s.txFull = false := by
    rw [h.txFull_eq, hq]
    exact beq_false_of_ne (Nat.ne_of_lt h.depth)
  have hbusy : s.txBusy = false := by rw [h.txBusy_eq, hq]; rfl
  cases op with
  | beginTxn | endTxn => exact hbusy
  | send f => exact hfull
  | deselect => rfl

/-- On the default turns the engine moves, or its micro-operation waits for a frame that the transport then shifts. -/
theorem State.Driving.exists_progress {s : State} {op : MicroOp} (h : s.Driving) (hop : s.mprog[s.mpc]? = some op) :
    ∃ t, step s = .next t ∧ Progress s t := by
  cases hheld : s.held op with
  | false =>
    obtain ⟨u, hm, heffect⟩ := runMicro_effect hheld
    exact ⟨_, (step_turnOf h.rst (h.turnOf_engine hop hheld)).trans (engineTurn_of_runMicro h.phase hop hm),
      heffect.progress h.phase hop⟩
  | true =>
    cases hq : s.queue with
    | nil => simp [h.held_of_queue_nil hq op] at hheld
    | cons f q =>
      refine ⟨_, h.step_shift hop hheld hq, rfl, rfl, rfl, rfl, rfl, rfl, .inr ⟨h.phase, ?_⟩⟩
      simp [State.work, hq]

/-- In EXEC the run to completion is no longer than the work left. -/
theorem exists_completion {s : State} (hinv : s.Inv) (h : s.Driving) :
    ∃ k t, k ≤ s.work ∧ Sys2Proof.core.run k s = .next t ∧ t.Inv ∧ t.phase = .idle ∧ t.result = .ok ∧
      t.host = s.host ∧ t.fb = s.fb ∧ t.N = s.N := by
  induction hm : s.work using Nat.strong_induction_on generalizing s with
  | _ m ih =>
    obtain ⟨-, -, -, hexec⟩ := hinv.exec h.phase
    obtain ⟨hlt, -⟩ := (execOk_iff s).1 hexec
    obtain ⟨t, hstep, hprogress⟩ := h.exists_progress (List.getElem?_eq_getElem hlt)
    have htinv := stepKeepsTheInvariant s t hinv hstep
    obtain ⟨hr, hsched, hstalled, hhost, hfb, hN, ⟨hidle, hok⟩ | ⟨hp, hless⟩⟩ := hprogress
    · have hpos : 1 ≤ m := by rw [← hm, State.work]; omega
      exact ⟨1, t, hpos, run_succ 0 hstep, htinv, hidle, hok, hhost, hfb, hN⟩
    · obtain ⟨⟨-, -, hdepth⟩, -⟩ := htinv.config
      have ht : t.Driving := ⟨hr.trans h.rst, hsched.trans h.sched, hstalled.trans h.stalled, hp, hdepth⟩
      obtain ⟨k, t', hk, hrun, hinv', hidle, hok, hhost', hfb', hN'⟩ := ih t.work (hm ▸ hless) htinv ht rfl
      exact ⟨k + 1, t', by omega, (run_succ k hstep).trans hrun, hinv', hidle, hok, hhost'.trans hhost, hfb'.trans hfb,
        hN'.trans hN⟩

/-- Settles O57: the work left is the bound, and the invariant gives the fault and the select line at completion. -/
theorem commandsComplete : Obligations.CommandsComplete := by
  intro s hinv hr hstalled hsched hp
  obtain ⟨⟨-, -, hdepth⟩, -⟩ := hinv.config
  obtain ⟨k, t, hk, hrun, htinv, hidle, hok, hhost, hfb, hN⟩ :=
    exists_completion hinv ⟨hr, hsched, hstalled, hp, hdepth⟩
  obtain ⟨-, hfault, -, -, hcs⟩ := htinv.idle hidle
  exact ⟨k, t, hk, hrun, hidle, hok, hfault, hcs, hhost, hfb, hN⟩

/-! ## The chip writes from their header to their completion (42_chip_write.md) -/

/-- A header presented in IDLE on the default turns is executed (R34, R207). -/
theorem step_header {s : State} {w : CmdWord} {i : Instr} {hs : List HostAction} (hr : s.rst = false)
    (hsched : s.sched = []) (hq : s.queue = []) (hp : s.phase = .idle) (hhost : s.host = .word w :: hs)
    (hd : decode w = .ok i) : step s = exec i { s with host := hs } := by
  have hturn : s.turnOf = (.host, s) := by
    simp [State.turnOf, hsched, State.defaultAgent, State.engineReady, State.transportReady, hp, hq]
  rw [step_word_idle hr hturn hhost hp, acceptHeader_of_ok _ hd]

/-- What a latch leaves in a register of the chain (R107). -/
theorem latchByte_chipReg {s : State} {p : Nat} (hp : 1 ≤ p) (hpN : p ≤ s.chips.length) (a : BitVec 4) (f : Frame) :
    latchByte a (s.chipReg p a) f = if a ≠ 0 ∧ a = frameAddr f then some (frameData f) else s.chipReg p a := by
  by_cases ha : a = 0
  · have hnone : s.chipReg p a = none := by simp [State.chipReg, chipReg, ha]
    rw [if_neg fun h => h.1 ha, hnone, latchByte_none]
  · obtain ⟨b, hb⟩ := exists_chipReg hp hpN fun h => ha (BitVec.eq_of_toNat_eq h)
    rw [hb, latchByte]
    exact if_congr (and_iff_right ha).symm rfl rfl

/-- A no-op frame's latch changes no register of the chain (R82). -/
theorem latchByte_noop {s : State} {p : Nat} (hp : 1 ≤ p) (hpN : p ≤ s.chips.length) (a : BitVec 4) :
    latchByte a (s.chipReg p a) noopFrame = s.chipReg p a := by
  rw [latchByte_chipReg hp hpN]
  exact if_neg fun h => h.1 h.2

section Write

variable {s : State} {i : Instr} {w : CmdWord} {hs : List HostAction} {fs : List Frame} (hinv : s.Inv)
  (hr : s.rst = false) (hstalled : s.stalled = false) (hsched : s.sched = []) (hq : s.queue = [])
  (hp : s.phase = .idle) (hN : s.lengthMatches) (hd : decode w = .ok i) (hhost : s.host = .word w :: hs)
include hinv hr hstalled hsched hq hp hN hd hhost

/-- A command that loads one transaction of `N` mapped frames completes with OK, each chip having latched the frame of
its slot (R107, R109). -/
theorem exists_transaction_completion
    (hexec : exec i { s with host := hs } = .next { s with host := hs, phase := .exec, mprog := txn fs, mpc := 0 })
    (hlen : fs.length = s.N) (hmap : ∀ f ∈ fs, mappedFrame f) :
    ∃ n t, Sys2Proof.core.run n s = .next t ∧ t.phase = .idle ∧ t.result = .ok ∧ t.host = hs ∧
      ∀ p a, t.chipReg p a = latchByte a (s.chipReg p a) (fs.getD (s.N - p) noopFrame) := by
  have hheader := (step_header hr hsched hq hp hhost hd).trans hexec
  obtain ⟨⟨-, -, hdepth⟩, -⟩ := hinv.config
  obtain ⟨i, cs, tr, k, hreach, hregs⟩ := reaches_completion [fs] (List.cons_ne_nil _ _)
    { s with host := hs, phase := .exec, mprog := txn fs, mpc := 0 } ⟨hr, hsched, hstalled, rfl, hdepth⟩ hq hN
    (by simp) (by simpa using ⟨hlen, hmap⟩)
  obtain ⟨n, hrun⟩ := (Reaches.of_step hheader).trans hreach
  exact ⟨n, _, hrun, rfl, rfl, rfl, hregs⟩

end Write

/-- Settles O59: slot `k` of the addressed write carries the frame, every other slot a no-op. -/
theorem writeRegisterReachesItsChip : Obligations.WriteRegisterReachesItsChip := by
  intro s k f w hs hinv hr hstalled hsched hq hp hc hN hk hD hE hd hhost
  have hmap : ∀ g ∈ addressedFrames s.N k f, mappedFrame g := fun g hg => by
    obtain rfl | rfl := mem_addressedFrames hg
    · exact ⟨hD, hE⟩
    · exact ⟨by decide, by decide⟩
  obtain ⟨n, t, hrun, hidle, hok, hhost', hregs⟩ := exists_transaction_completion (fs := addressedFrames s.N k f) hinv
    hr hstalled hsched hq hp hN hd hhost (exec_writeRegister_within (s := { s with host := hs }) hp hc f hk)
    (walk_length _ _) hmap
  refine ⟨n, t, hrun, hidle, hok, hhost', fun p a => (hregs p a).trans ?_⟩
  by_cases hpos : 1 ≤ p ∧ p ≤ s.N
  · obtain ⟨hp1, hpN⟩ := hpos
    have hpN' : p ≤ s.chips.length := hN ▸ hpN
    rw [List.getD_eq_getElem?_getD, addressedFrames_getElem? k f (by omega), Option.getD_some]
    by_cases hslot : s.N - p = k
    · rw [if_pos hslot, latchByte_chipReg hp1 hpN']
      exact if_congr (and_iff_right (show p = s.N - k by omega)).symm rfl rfl
    · rw [if_neg hslot, latchByte_noop hp1 hpN', if_neg (by omega)]
  · have hnone : s.chipReg p a = none := chipReg_outside (hN ▸ hpos) a
    rw [hnone, latchByte_none, if_neg (by omega)]

/-- Settles O60: every slot of the broadcast carries the frame. -/
theorem writeAllReachesEveryChip : Obligations.WriteAllReachesEveryChip := by
  intro s f w hs hinv hr hstalled hsched hq hp hc hN hD hE hd hhost
  have hmap : ∀ g ∈ List.replicate s.N f, mappedFrame g := fun g hg => by
    obtain rfl := List.eq_of_mem_replicate hg
    exact ⟨hD, hE⟩
  obtain ⟨n, t, hrun, hidle, hok, hhost', hregs⟩ := exists_transaction_completion (fs := List.replicate s.N f) hinv
    hr hstalled hsched hq hp hN hd hhost (exec_writeAllRegisters_configured (s := { s with host := hs }) hp hc f)
    List.length_replicate hmap
  refine ⟨n, t, hrun, hidle, hok, hhost', fun p a hp1 hpN => (hregs p a).trans ?_⟩
  have hslot : (List.replicate s.N f).getD (s.N - p) noopFrame = f := List.getD_replicate _ (by omega)
  rw [hslot, latchByte_chipReg hp1 (hN ▸ hpN)]

end Sys2Proof.Machine
end
